-- ==== Sys2Proof/Word.lean ====
section
/-! DEFINITION. The two word types of the machine (00_scope.md R6, R7): a byte and a 16-bit word. -/

namespace Sys2Proof

/-- A byte (00_scope.md R7). -/
abbrev Byte := BitVec 8

/-- A 16-bit word (00_scope.md R7). -/
abbrev Word := BitVec 16

end Sys2Proof
end

