-- ==== Sys2Proof/Syntax.lean ====
section
/-! DEFINITION. The instructions: one constructor for each of the 208 rows of spec/opcode_table.json
(30_encoding.md R114, R123), with its operands. -/

namespace Sys2Proof

/-- The 8-bit registers an encoding can name (30_encoding.md R103; code 6 names none). -/
inductive R8 where
  | b | c | d | e | h | l | a
deriving DecidableEq, Repr

/-- The pairs of the fields `dd` and `ss` (30_encoding.md R104). -/
inductive PairDd where
  | bc | de | hl | sp
deriving DecidableEq, Repr

/-- The pairs of the field `qq` of PUSH and POP (30_encoding.md R104). -/
inductive PairQq where
  | bc | de | hl | af
deriving DecidableEq, Repr

/-- The pairs of the fields `pp` (`xy` is IX) and `rr` (`xy` is IY) (30_encoding.md R104). -/
inductive PairPp where
  | bc | de | xy | sp
deriving DecidableEq, Repr

/-- The eight conditions (00_scope.md R20, 30_encoding.md R105). -/
inductive Cond where
  | nz | z | nc | c | po | pe | p | m
deriving DecidableEq, Repr

/-- The two index registers (10_state.md R33). -/
inductive Idx where
  | ix | iy
deriving DecidableEq, Repr

/-- An instruction. Operands: `n` a byte, `nn` a word, `d` an index displacement and `e` a relative
displacement as their encoded bytes (R108), `b` a bit number and `t` an RST code (R105), `op` the byte
that makes an encoding undefined (R116, R119). -/
inductive Instr where
  /-- `LD r,r'` (R130). -/
  | ldRR (r : R8) (s : R8)
  /-- `LD r,n` (R131). -/
  | ldRN (r : R8) (n : Byte)
  /-- `LD r,(HL)` (R132). -/
  | ldRHl (r : R8)
  /-- `LD r,(IX+d)` (R133). -/
  | ldRIxD (r : R8) (d : Byte)
  /-- `LD r,(IY+d)` (R134). -/
  | ldRIyD (r : R8) (d : Byte)
  /-- `LD (HL),r` (R135). -/
  | ldHlR (s : R8)
  /-- `LD (IX+d),r` (R136). -/
  | ldIxDR (s : R8) (d : Byte)
  /-- `LD (IY+d),r` (R137). -/
  | ldIyDR (s : R8) (d : Byte)
  /-- `LD (HL),n` (R138). -/
  | ldHlN (n : Byte)
  /-- `LD (IX+d),n` (R139). -/
  | ldIxDN (d : Byte) (n : Byte)
  /-- `LD (IY+d),n` (R140). -/
  | ldIyDN (d : Byte) (n : Byte)
  /-- `LD A,(BC)` (R141). -/
  | ldABc
  /-- `LD A,(DE)` (R142). -/
  | ldADe
  /-- `LD A,(nn)` (R143). -/
  | ldANn (nn : Word)
  /-- `LD (BC),A` (R144). -/
  | ldBcA
  /-- `LD (DE),A` (R145). -/
  | ldDeA
  /-- `LD (nn),A` (R146). -/
  | ldNnA (nn : Word)
  /-- `LD A,I` (R147). -/
  | ldAIreg
  /-- `LD A,R` (R148). -/
  | ldARreg
  /-- `LD I,A` (R149). -/
  | ldIregA
  /-- `LD R,A` (R150). -/
  | ldRregA
  /-- `LD dd,nn` (R151). -/
  | ldDdNn (p : PairDd) (nn : Word)
  /-- `LD IX,nn` (R152). -/
  | ldIxNn (nn : Word)
  /-- `LD IY,nn` (R153). -/
  | ldIyNn (nn : Word)
  /-- `LD HL,(nn)` (R154). -/
  | ldHlMem (nn : Word)
  /-- `LD dd,(nn)` (R155). -/
  | ldDdMem (p : PairDd) (nn : Word)
  /-- `LD IX,(nn)` (R156). -/
  | ldIxMem (nn : Word)
  /-- `LD IY,(nn)` (R157). -/
  | ldIyMem (nn : Word)
  /-- `LD (nn),HL` (R158). -/
  | ldMemHl (nn : Word)
  /-- `LD (nn),dd` (R159). -/
  | ldMemDd (p : PairDd) (nn : Word)
  /-- `LD (nn),IX` (R160). -/
  | ldMemIx (nn : Word)
  /-- `LD (nn),IY` (R161). -/
  | ldMemIy (nn : Word)
  /-- `LD SP,HL` (R162). -/
  | ldSpHl
  /-- `LD SP,IX` (R163). -/
  | ldSpIx
  /-- `LD SP,IY` (R164). -/
  | ldSpIy
  /-- `PUSH qq` (R165). -/
  | pushQq (p : PairQq)
  /-- `PUSH IX` (R166). -/
  | pushIx
  /-- `PUSH IY` (R167). -/
  | pushIy
  /-- `POP qq` (R168). -/
  | popQq (p : PairQq)
  /-- `POP IX` (R169). -/
  | popIx
  /-- `POP IY` (R170). -/
  | popIy
  /-- `EX DE,HL` (R171). -/
  | exDeHl
  /-- `EX AF,AF'` (R172). -/
  | exAfAf
  /-- `EXX` (R173). -/
  | exx
  /-- `EX (SP),HL` (R174). -/
  | exSpHl
  /-- `EX (SP),IX` (R175). -/
  | exSpIx
  /-- `EX (SP),IY` (R176). -/
  | exSpIy
  /-- `LDI` (R177). -/
  | ldi
  /-- `LDIR` (R178). -/
  | ldir
  /-- `LDD` (R179). -/
  | ldd
  /-- `LDDR` (R180). -/
  | lddr
  /-- `CPI` (R181). -/
  | cpi
  /-- `CPIR` (R182). -/
  | cpir
  /-- `CPD` (R183). -/
  | cpd
  /-- `CPDR` (R184). -/
  | cpdr
  /-- `ADD A,r` (R185). -/
  | addR (s : R8)
  /-- `ADD A,n` (R186). -/
  | addN (n : Byte)
  /-- `ADD A,(HL)` (R187). -/
  | addHl
  /-- `ADD A,(IX+d)` (R188). -/
  | addIxD (d : Byte)
  /-- `ADD A,(IY+d)` (R189). -/
  | addIyD (d : Byte)
  /-- `ADC A,r` (R190). -/
  | adcR (s : R8)
  /-- `ADC A,n` (R191). -/
  | adcN (n : Byte)
  /-- `ADC A,(HL)` (R192). -/
  | adcHl
  /-- `ADC A,(IX+d)` (R193). -/
  | adcIxD (d : Byte)
  /-- `ADC A,(IY+d)` (R194). -/
  | adcIyD (d : Byte)
  /-- `SUB r` (R195). -/
  | subR (s : R8)
  /-- `SUB n` (R196). -/
  | subN (n : Byte)
  /-- `SUB (HL)` (R197). -/
  | subHl
  /-- `SUB (IX+d)` (R198). -/
  | subIxD (d : Byte)
  /-- `SUB (IY+d)` (R199). -/
  | subIyD (d : Byte)
  /-- `SBC A,r` (R200). -/
  | sbcR (s : R8)
  /-- `SBC A,n` (R201). -/
  | sbcN (n : Byte)
  /-- `SBC A,(HL)` (R202). -/
  | sbcHl
  /-- `SBC A,(IX+d)` (R203). -/
  | sbcIxD (d : Byte)
  /-- `SBC A,(IY+d)` (R204). -/
  | sbcIyD (d : Byte)
  /-- `AND r` (R205). -/
  | andR (s : R8)
  /-- `AND n` (R206). -/
  | andN (n : Byte)
  /-- `AND (HL)` (R207). -/
  | andHl
  /-- `AND (IX+d)` (R208). -/
  | andIxD (d : Byte)
  /-- `AND (IY+d)` (R209). -/
  | andIyD (d : Byte)
  /-- `OR r` (R210). -/
  | orR (s : R8)
  /-- `OR n` (R211). -/
  | orN (n : Byte)
  /-- `OR (HL)` (R212). -/
  | orHl
  /-- `OR (IX+d)` (R213). -/
  | orIxD (d : Byte)
  /-- `OR (IY+d)` (R214). -/
  | orIyD (d : Byte)
  /-- `XOR r` (R215). -/
  | xorR (s : R8)
  /-- `XOR n` (R216). -/
  | xorN (n : Byte)
  /-- `XOR (HL)` (R217). -/
  | xorHl
  /-- `XOR (IX+d)` (R218). -/
  | xorIxD (d : Byte)
  /-- `XOR (IY+d)` (R219). -/
  | xorIyD (d : Byte)
  /-- `CP r` (R220). -/
  | cpR (s : R8)
  /-- `CP n` (R221). -/
  | cpN (n : Byte)
  /-- `CP (HL)` (R222). -/
  | cpHl
  /-- `CP (IX+d)` (R223). -/
  | cpIxD (d : Byte)
  /-- `CP (IY+d)` (R224). -/
  | cpIyD (d : Byte)
  /-- `INC r` (R225). -/
  | incR (r : R8)
  /-- `INC (HL)` (R226). -/
  | incHl
  /-- `INC (IX+d)` (R227). -/
  | incIxD (d : Byte)
  /-- `INC (IY+d)` (R228). -/
  | incIyD (d : Byte)
  /-- `DEC r` (R229). -/
  | decR (r : R8)
  /-- `DEC (HL)` (R230). -/
  | decHl
  /-- `DEC (IX+d)` (R231). -/
  | decIxD (d : Byte)
  /-- `DEC (IY+d)` (R232). -/
  | decIyD (d : Byte)
  /-- `DAA` (R233). -/
  | daa
  /-- `CPL` (R234). -/
  | cpl
  /-- `NEG` (R235). -/
  | neg
  /-- `CCF` (R236). -/
  | ccf
  /-- `SCF` (R237). -/
  | scf
  /-- `NOP` (R238). -/
  | nop
  /-- `HALT` (R239). -/
  | halt
  /-- `DI` (R240). -/
  | di
  /-- `EI` (R241). -/
  | ei
  /-- `IM 0` (R242). -/
  | im0
  /-- `IM 1` (R243). -/
  | im1
  /-- `IM 2` (R244). -/
  | im2
  /-- `ADD HL,ss` (R245). -/
  | addHlSs (p : PairDd)
  /-- `ADC HL,ss` (R246). -/
  | adcHlSs (p : PairDd)
  /-- `SBC HL,ss` (R247). -/
  | sbcHlSs (p : PairDd)
  /-- `ADD IX,pp` (R248). -/
  | addIxPp (p : PairPp)
  /-- `ADD IY,rr` (R249). -/
  | addIyRr (p : PairPp)
  /-- `INC ss` (R250). -/
  | incSs (p : PairDd)
  /-- `INC IX` (R251). -/
  | incIx
  /-- `INC IY` (R252). -/
  | incIy
  /-- `DEC ss` (R253). -/
  | decSs (p : PairDd)
  /-- `DEC IX` (R254). -/
  | decIx
  /-- `DEC IY` (R255). -/
  | decIy
  /-- `RLCA` (R256). -/
  | rlca
  /-- `RLA` (R257). -/
  | rla
  /-- `RRCA` (R258). -/
  | rrca
  /-- `RRA` (R259). -/
  | rra
  /-- `RLC r` (R260). -/
  | rlcR (s : R8)
  /-- `RLC (HL)` (R261). -/
  | rlcHl
  /-- `RLC (IX+d)` (R262). -/
  | rlcIxD (d : Byte)
  /-- `RLC (IY+d)` (R263). -/
  | rlcIyD (d : Byte)
  /-- `RL r` (R264). -/
  | rlR (s : R8)
  /-- `RL (HL)` (R265). -/
  | rlHl
  /-- `RL (IX+d)` (R266). -/
  | rlIxD (d : Byte)
  /-- `RL (IY+d)` (R267). -/
  | rlIyD (d : Byte)
  /-- `RRC r` (R268). -/
  | rrcR (s : R8)
  /-- `RRC (HL)` (R269). -/
  | rrcHl
  /-- `RRC (IX+d)` (R270). -/
  | rrcIxD (d : Byte)
  /-- `RRC (IY+d)` (R271). -/
  | rrcIyD (d : Byte)
  /-- `RR r` (R272). -/
  | rrR (s : R8)
  /-- `RR (HL)` (R273). -/
  | rrHl
  /-- `RR (IX+d)` (R274). -/
  | rrIxD (d : Byte)
  /-- `RR (IY+d)` (R275). -/
  | rrIyD (d : Byte)
  /-- `SLA r` (R276). -/
  | slaR (s : R8)
  /-- `SLA (HL)` (R277). -/
  | slaHl
  /-- `SLA (IX+d)` (R278). -/
  | slaIxD (d : Byte)
  /-- `SLA (IY+d)` (R279). -/
  | slaIyD (d : Byte)
  /-- `SRA r` (R280). -/
  | sraR (s : R8)
  /-- `SRA (HL)` (R281). -/
  | sraHl
  /-- `SRA (IX+d)` (R282). -/
  | sraIxD (d : Byte)
  /-- `SRA (IY+d)` (R283). -/
  | sraIyD (d : Byte)
  /-- `SRL r` (R284). -/
  | srlR (s : R8)
  /-- `SRL (HL)` (R285). -/
  | srlHl
  /-- `SRL (IX+d)` (R286). -/
  | srlIxD (d : Byte)
  /-- `SRL (IY+d)` (R287). -/
  | srlIyD (d : Byte)
  /-- `RLD` (R288). -/
  | rld
  /-- `RRD` (R289). -/
  | rrd
  /-- `BIT b,r` (R290). -/
  | bitR (b : BitVec 3) (s : R8)
  /-- `BIT b,(HL)` (R291). -/
  | bitHl (b : BitVec 3)
  /-- `BIT b,(IX+d)` (R292). -/
  | bitIxD (b : BitVec 3) (d : Byte)
  /-- `BIT b,(IY+d)` (R293). -/
  | bitIyD (b : BitVec 3) (d : Byte)
  /-- `SET b,r` (R294). -/
  | setR (b : BitVec 3) (s : R8)
  /-- `SET b,(HL)` (R295). -/
  | setHl (b : BitVec 3)
  /-- `SET b,(IX+d)` (R296). -/
  | setIxD (b : BitVec 3) (d : Byte)
  /-- `SET b,(IY+d)` (R297). -/
  | setIyD (b : BitVec 3) (d : Byte)
  /-- `RES b,r` (R298). -/
  | resR (b : BitVec 3) (s : R8)
  /-- `RES b,(HL)` (R299). -/
  | resHl (b : BitVec 3)
  /-- `RES b,(IX+d)` (R300). -/
  | resIxD (b : BitVec 3) (d : Byte)
  /-- `RES b,(IY+d)` (R301). -/
  | resIyD (b : BitVec 3) (d : Byte)
  /-- `JP nn` (R302). -/
  | jpNn (nn : Word)
  /-- `JP cc,nn` (R303). -/
  | jpCcNn (cc : Cond) (nn : Word)
  /-- `JR e` (R304). -/
  | jr (e : Byte)
  /-- `JR C,e` (R305). -/
  | jrC (e : Byte)
  /-- `JR NC,e` (R306). -/
  | jrNc (e : Byte)
  /-- `JR Z,e` (R307). -/
  | jrZ (e : Byte)
  /-- `JR NZ,e` (R308). -/
  | jrNz (e : Byte)
  /-- `JP (HL)` (R309). -/
  | jpHl
  /-- `JP (IX)` (R310). -/
  | jpIx
  /-- `JP (IY)` (R311). -/
  | jpIy
  /-- `DJNZ e` (R312). -/
  | djnz (e : Byte)
  /-- `CALL nn` (R313). -/
  | callNn (nn : Word)
  /-- `CALL cc,nn` (R314). -/
  | callCcNn (cc : Cond) (nn : Word)
  /-- `RET` (R315). -/
  | ret
  /-- `RET cc` (R316). -/
  | retCc (cc : Cond)
  /-- `RETI` (R317). -/
  | reti
  /-- `RETN` (R318). -/
  | retn
  /-- `RST p` (R319). -/
  | rst (t : BitVec 3)
  /-- `IN A,(n)` (R320). -/
  | inAN (n : Byte)
  /-- `IN r,(C)` (R321). -/
  | inRC (r : R8)
  /-- `INI` (R322). -/
  | ini
  /-- `INIR` (R323). -/
  | inir
  /-- `IND` (R324). -/
  | ind
  /-- `INDR` (R325). -/
  | indr
  /-- `OUT (n),A` (R326). -/
  | outNA (n : Byte)
  /-- `OUT (C),r` (R327). -/
  | outCR (s : R8)
  /-- `OUTI` (R328). -/
  | outi
  /-- `OTIR` (R329). -/
  | otir
  /-- `OUTD` (R330). -/
  | outd
  /-- `OTDR` (R331). -/
  | otdr
  /-- `NOP* (ED undefined)` (R116). -/
  | nopEd (op : Byte)
  /-- `NOP* (CB 30-37)` (R117). -/
  | nopCb (s : BitVec 3)
  /-- `NOP* (lone DD prefix)` (R118). -/
  | nopDd
  /-- `NOP* (DD CB undefined)` (R119). -/
  | nopDdCb (d : Byte) (op : Byte)
  /-- `NOP* (lone FD prefix)` (R118). -/
  | nopFd
  /-- `NOP* (FD CB undefined)` (R119). -/
  | nopFdCb (d : Byte) (op : Byte)
deriving DecidableEq, Repr

/-- The thirteen instruction formats (30_encoding.md R109). -/
inductive Format where
  | op | opN | opE | opNn | cbOp | edOp | edOpNn | xyOp | xyOpD | xyOpDN | xyOpNn | xyCbDOp | xyLone
deriving DecidableEq, Repr

end Sys2Proof
end

