-- ==== Sys2Proof/WellFormed.lean ====
section
/-! DEFINITION. Which terms of `Instr` are instructions: a fallback row holds only bytes outside the
documented set (30_encoding.md R110, R112, R116, R119). Every other constructor is well formed with any
operands, because the operand types hold only what the fields can name (R103 to R108). -/

namespace Sys2Proof

/-- The ED documented set: its 58 second bytes (30_encoding.md R110). -/
def edDocumented : List Byte :=
  [0x40, 0x41, 0x42, 0x43, 0x44, 0x45, 0x46, 0x47, 0x48, 0x49, 0x4A, 0x4B, 0x4D, 0x4F] ++
  [0x50, 0x51, 0x52, 0x53, 0x56, 0x57, 0x58, 0x59, 0x5A, 0x5B, 0x5E, 0x5F] ++
  [0x60, 0x61, 0x62, 0x63, 0x67, 0x68, 0x69, 0x6A, 0x6B, 0x6F] ++
  [0x72, 0x73, 0x78, 0x79, 0x7A, 0x7B] ++
  [0xA0, 0xA1, 0xA2, 0xA3, 0xA8, 0xA9, 0xAA, 0xAB, 0xB0, 0xB1, 0xB2, 0xB3, 0xB8, 0xB9, 0xBA, 0xBB]

/-- The indexed-bit documented set: the 31 final bytes of `DD CB d b3` and `FD CB d b3`
(30_encoding.md R112). -/
def xyCbDocumented : List Byte :=
  [0x06, 0x0E, 0x16, 0x1E, 0x26, 0x2E, 0x3E] ++
  [0x46, 0x4E, 0x56, 0x5E, 0x66, 0x6E, 0x76, 0x7E] ++
  [0x86, 0x8E, 0x96, 0x9E, 0xA6, 0xAE, 0xB6, 0xBE] ++
  [0xC6, 0xCE, 0xD6, 0xDE, 0xE6, 0xEE, 0xF6, 0xFE]

/-- The indexed documented set: the 39 second bytes after DD or FD (30_encoding.md R111). -/
def xyDocumented : List Byte :=
  [0x09, 0x19, 0x21, 0x22, 0x23, 0x29, 0x2A, 0x2B, 0x34, 0x35, 0x36, 0x39] ++
  [0x46, 0x4E, 0x56, 0x5E, 0x66, 0x6E, 0x70, 0x71, 0x72, 0x73, 0x74, 0x75, 0x77, 0x7E] ++
  [0x86, 0x8E, 0x96, 0x9E, 0xA6, 0xAE, 0xB6, 0xBE, 0xE1, 0xE3, 0xE5, 0xE9, 0xF9]

/-- The check of an instruction: a fallback holds no documented byte. -/
def Instr.wellFormed (i : Instr) : Bool :=
  match i with
  | .nopEd op => !edDocumented.contains op
  | .nopDdCb _ op => !xyCbDocumented.contains op
  | .nopFdCb _ op => !xyCbDocumented.contains op
  | _ => true

end Sys2Proof
end

