-- ==== Sys2Proof/Decode.lean ====
section
/-! DEFINITION. The decoder (30_encoding.md R100 to R120), total on any four bytes; its form over byte
lists, which rejects a truncated instruction by name; and the encoder, written from the encoding
patterns of the instruction rules. -/

namespace Sys2Proof

/-! ### Fields of a byte and bytes of a word -/

/-- `hi(w)` (00_scope.md R7). -/
def hiByte (w : Word) : Byte := w.extractLsb' 8 8

/-- `lo(w)` (00_scope.md R7). -/
def loByte (w : Word) : Byte := w.extractLsb' 0 8

/-- `h ++ l` as a word; `lo` comes first because it is fetched first (00_scope.md R7,
30_encoding.md R107). -/
def wordOf (lo hi : Byte) : Word := hi ++ lo

/-- `op[7:6]` (30_encoding.md R114). -/
def fieldX (op : Byte) : BitVec 2 := op.extractLsb' 6 2

/-- `op[5:3]` (30_encoding.md R114). -/
def fieldY (op : Byte) : BitVec 3 := op.extractLsb' 3 3

/-- `op[2:0]` (30_encoding.md R114). -/
def fieldZ (op : Byte) : BitVec 3 := op.extractLsb' 0 3

/-- The pair code, `op[5:4]` (30_encoding.md R104). -/
def fieldP (op : Byte) : BitVec 2 := op.extractLsb' 4 2

/-- `op[3]`, the selector beside a pair code (30_encoding.md R109). -/
def fieldQ (op : Byte) : Bool := op.getLsbD 3

/-! ### Codes -/

/-- The register of a 3-bit code; code 6 names none (30_encoding.md R103). -/
def R8.ofCode (k : BitVec 3) : Option R8 :=
  match k.toNat with
  | 0 => some .b
  | 1 => some .c
  | 2 => some .d
  | 3 => some .e
  | 4 => some .h
  | 5 => some .l
  | 6 => none
  | _ => some .a

/-- The code of a register (30_encoding.md R103). -/
def R8.code : R8 → BitVec 3
  | .b => 0
  | .c => 1
  | .d => 2
  | .e => 3
  | .h => 4
  | .l => 5
  | .a => 7

/-- The pair of a `dd` or `ss` code (30_encoding.md R104). -/
def PairDd.ofCode (k : BitVec 2) : PairDd :=
  match k.toNat with
  | 0 => .bc
  | 1 => .de
  | 2 => .hl
  | _ => .sp

/-- The code of a `dd` or `ss` pair (30_encoding.md R104). -/
def PairDd.code : PairDd → BitVec 2
  | .bc => 0
  | .de => 1
  | .hl => 2
  | .sp => 3

/-- The pair of a `qq` code (30_encoding.md R104). -/
def PairQq.ofCode (k : BitVec 2) : PairQq :=
  match k.toNat with
  | 0 => .bc
  | 1 => .de
  | 2 => .hl
  | _ => .af

/-- The code of a `qq` pair (30_encoding.md R104). -/
def PairQq.code : PairQq → BitVec 2
  | .bc => 0
  | .de => 1
  | .hl => 2
  | .af => 3

/-- The pair of a `pp` or `rr` code (30_encoding.md R104). -/
def PairPp.ofCode (k : BitVec 2) : PairPp :=
  match k.toNat with
  | 0 => .bc
  | 1 => .de
  | 2 => .xy
  | _ => .sp

/-- The code of a `pp` or `rr` pair (30_encoding.md R104). -/
def PairPp.code : PairPp → BitVec 2
  | .bc => 0
  | .de => 1
  | .xy => 2
  | .sp => 3

/-- One of eight things, by a 3-bit code. -/
def pick8 {α : Type} (k : BitVec 3) (a0 a1 a2 a3 a4 a5 a6 a7 : α) : α :=
  match k.toNat with
  | 0 => a0
  | 1 => a1
  | 2 => a2
  | 3 => a3
  | 4 => a4
  | 5 => a5
  | 6 => a6
  | _ => a7

/-- The condition of a 3-bit code (30_encoding.md R105). -/
def Cond.ofCode (k : BitVec 3) : Cond :=
  pick8 k .nz .z .nc .c .po .pe .p .m

/-- The code of a condition (30_encoding.md R105). -/
def Cond.code : Cond → BitVec 3
  | .nz => 0
  | .z => 1
  | .nc => 2
  | .c => 3
  | .po => 4
  | .pe => 5
  | .p => 6
  | .m => 7

/-! ### The CB table (30_encoding.md R113, R117) -/

/-- The CB table's shift group: the operation `y` on a register or on (HL); operation 6 is undefined. -/
def decodeCbShift (y z : BitVec 3) : Instr :=
  match R8.ofCode z with
  | some s => pick8 y (.rlcR s) (.rrcR s) (.rlR s) (.rrR s) (.slaR s) (.sraR s) (.nopCb z) (.srlR s)
  | none => pick8 y .rlcHl .rrcHl .rlHl .rrHl .slaHl .sraHl (.nopCb z) .srlHl

/-- The entry of the CB table for the second byte `op`. -/
def decodeCb (op : Byte) : Instr :=
  let y := fieldY op
  let z := fieldZ op
  match (fieldX op).toNat, R8.ofCode z with
  | 0, _ => decodeCbShift y z
  | 1, some s => .bitR y s
  | 1, none => .bitHl y
  | 2, some s => .resR y s
  | 2, none => .resHl y
  | _, some s => .setR y s
  | _, none => .setHl y

/-! ### The ED table (30_encoding.md R110, R116) -/

/-- The quarter `op[7:6] = 1` of the ED table. -/
def decodeEd1 (op b2 b3 : Byte) : Instr :=
  let y := fieldY op
  let undefinedOp := Instr.nopEd op
  let pair := PairDd.ofCode (fieldP op)
  match (fieldZ op).toNat with
  | 0 => ((R8.ofCode y).map Instr.inRC).getD undefinedOp
  | 1 => ((R8.ofCode y).map Instr.outCR).getD undefinedOp
  | 2 => if fieldQ op then .adcHlSs pair else .sbcHlSs pair
  | 3 => if fieldQ op then .ldDdMem pair (wordOf b2 b3) else .ldMemDd pair (wordOf b2 b3)
  | 4 => if y = 0 then .neg else undefinedOp
  | 5 => if y = 0 then .retn else if y = 1 then .reti else undefinedOp
  | 6 => if y = 0 then .im0 else if y = 2 then .im1 else if y = 3 then .im2 else undefinedOp
  | _ => pick8 y .ldIregA .ldRregA .ldAIreg .ldARreg .rrd .rld undefinedOp undefinedOp

/-- The block instructions of the ED table (`op[7:6] = 2`). -/
def decodeEd2 (op : Byte) : Instr :=
  let y := fieldY op
  let undefinedOp := Instr.nopEd op
  let block (i d ir dr : Instr) : Instr :=
    pick8 y undefinedOp undefinedOp undefinedOp undefinedOp i d ir dr
  match (fieldZ op).toNat with
  | 0 => block .ldi .ldd .ldir .lddr
  | 1 => block .cpi .cpd .cpir .cpdr
  | 2 => block .ini .ind .inir .indr
  | 3 => block .outi .outd .otir .otdr
  | _ => undefinedOp

/-- The entry of the ED table for the second byte `op`, with the operand bytes after it. -/
def decodeEd (op b2 b3 : Byte) : Instr :=
  match (fieldX op).toNat with
  | 1 => decodeEd1 op b2 b3
  | 2 => decodeEd2 op
  | _ => .nopEd op

/-! ### The DD and FD tables (30_encoding.md R111, R112, R118, R119) -/

/-- The instruction for IX or the one for IY. -/
def forIdx (x : Idx) (onIx onIy : Instr) : Instr :=
  match x with
  | .ix => onIx
  | .iy => onIy

/-- The shift group of the indexed-bit table; operation 6 is undefined. -/
def decodeXyShift (x : Idx) (y : BitVec 3) (d op : Byte) : Instr :=
  pick8 y (forIdx x (.rlcIxD d) (.rlcIyD d)) (forIdx x (.rrcIxD d) (.rrcIyD d))
    (forIdx x (.rlIxD d) (.rlIyD d)) (forIdx x (.rrIxD d) (.rrIyD d))
    (forIdx x (.slaIxD d) (.slaIyD d)) (forIdx x (.sraIxD d) (.sraIyD d))
    (forIdx x (.nopDdCb d op) (.nopFdCb d op)) (forIdx x (.srlIxD d) (.srlIyD d))

/-- The entry of the indexed-bit table for `X CB d op`. -/
def decodeXyCb (x : Idx) (d op : Byte) : Instr :=
  let y := fieldY op
  if fieldZ op = 6 then
    match (fieldX op).toNat with
    | 0 => decodeXyShift x y d op
    | 1 => forIdx x (.bitIxD y d) (.bitIyD y d)
    | 2 => forIdx x (.resIxD y d) (.resIyD y d)
    | _ => forIdx x (.setIxD y d) (.setIyD y d)
  else forIdx x (.nopDdCb d op) (.nopFdCb d op)

/-- The quarter `op[7:6] = 0` of the indexed table, none where `op` is not in it. -/
def decodeXy0 (x : Idx) (op b2 b3 : Byte) : Option Instr :=
  let y := (fieldY op).toNat
  let pair := PairPp.ofCode (fieldP op)
  let nn := wordOf b2 b3
  match (fieldZ op).toNat with
  | 1 =>
    if fieldQ op then some (forIdx x (.addIxPp pair) (.addIyRr pair))
    else if y = 4 then some (forIdx x (.ldIxNn nn) (.ldIyNn nn)) else none
  | 2 =>
    if y = 4 then some (forIdx x (.ldMemIx nn) (.ldMemIy nn))
    else if y = 5 then some (forIdx x (.ldIxMem nn) (.ldIyMem nn)) else none
  | 3 =>
    if y = 4 then some (forIdx x .incIx .incIy)
    else if y = 5 then some (forIdx x .decIx .decIy) else none
  | 4 => if y = 6 then some (forIdx x (.incIxD b2) (.incIyD b2)) else none
  | 5 => if y = 6 then some (forIdx x (.decIxD b2) (.decIyD b2)) else none
  | 6 => if y = 6 then some (forIdx x (.ldIxDN b2 b3) (.ldIyDN b2 b3)) else none
  | _ => none

/-- The quarter `op[7:6] = 1` of the indexed table: loads with one `(X+d)` operand. -/
def decodeXy1 (x : Idx) (op d : Byte) : Option Instr :=
  match R8.ofCode (fieldY op), R8.ofCode (fieldZ op) with
  | some r, none => some (forIdx x (.ldRIxD r d) (.ldRIyD r d))
  | none, some s => some (forIdx x (.ldIxDR s d) (.ldIyDR s d))
  | _, _ => none

/-- The quarter `op[7:6] = 2` of the indexed table: arithmetic on `(X+d)`. -/
def decodeXy2 (x : Idx) (op d : Byte) : Option Instr :=
  if fieldZ op = 6 then
    some (pick8 (fieldY op)
      (forIdx x (.addIxD d) (.addIyD d)) (forIdx x (.adcIxD d) (.adcIyD d))
      (forIdx x (.subIxD d) (.subIyD d)) (forIdx x (.sbcIxD d) (.sbcIyD d))
      (forIdx x (.andIxD d) (.andIyD d)) (forIdx x (.xorIxD d) (.xorIyD d))
      (forIdx x (.orIxD d) (.orIyD d)) (forIdx x (.cpIxD d) (.cpIyD d)))
  else none

/-- The quarter `op[7:6] = 3` of the indexed table. -/
def decodeXy3 (x : Idx) (op : Byte) : Option Instr :=
  match (fieldZ op).toNat, (fieldY op).toNat with
  | 1, 4 => some (forIdx x .popIx .popIy)
  | 1, 5 => some (forIdx x .jpIx .jpIy)
  | 1, 7 => some (forIdx x .ldSpIx .ldSpIy)
  | 3, 4 => some (forIdx x .exSpIx .exSpIy)
  | 5, 4 => some (forIdx x .pushIx .pushIy)
  | _, _ => none

/-- The bytes after a DD (`x = ix`) or FD (`x = iy`) prefix: the indexed-bit table after CB, the
indexed table, or the lone prefix, which consumes none of them (30_encoding.md R102 step 4). -/
def decodeXy (x : Idx) (op b2 b3 : Byte) : Instr :=
  let found :=
    if op = 0xCB then some (decodeXyCb x b2 b3)
    else
      match (fieldX op).toNat with
      | 0 => decodeXy0 x op b2 b3
      | 1 => decodeXy1 x op b2
      | 2 => decodeXy2 x op b2
      | _ => decodeXy3 x op
  found.getD (forIdx x .nopDd .nopFd)

/-! ### The unprefixed table (30_encoding.md R114) -/

/-- The quarter `op[7:6] = 0`. -/
def decode0 (op b1 b2 : Byte) : Instr :=
  let y := fieldY op
  let pair := PairDd.ofCode (fieldP op)
  let nn := wordOf b1 b2
  match (fieldZ op).toNat with
  | 0 => pick8 y .nop .exAfAf (.djnz b1) (.jr b1) (.jrNz b1) (.jrZ b1) (.jrNc b1) (.jrC b1)
  | 1 => if fieldQ op then .addHlSs pair else .ldDdNn pair nn
  | 2 => pick8 y .ldBcA .ldABc .ldDeA .ldADe (.ldMemHl nn) (.ldHlMem nn) (.ldNnA nn) (.ldANn nn)
  | 3 => if fieldQ op then .decSs pair else .incSs pair
  | 4 => ((R8.ofCode y).map Instr.incR).getD .incHl
  | 5 => ((R8.ofCode y).map Instr.decR).getD .decHl
  | 6 => ((R8.ofCode y).map fun r => Instr.ldRN r b1).getD (.ldHlN b1)
  | _ => pick8 y .rlca .rrca .rla .rra .daa .cpl .scf .ccf

/-- The quarter `op[7:6] = 1`: 8-bit loads, and HALT in the place of `LD (HL),(HL)`. -/
def decode1 (op : Byte) : Instr :=
  match R8.ofCode (fieldY op), R8.ofCode (fieldZ op) with
  | some r, some s => .ldRR r s
  | some r, none => .ldRHl r
  | none, some s => .ldHlR s
  | none, none => .halt

/-- The quarter `op[7:6] = 2`: 8-bit arithmetic on a register or (HL) (30_encoding.md R106). -/
def decode2 (op : Byte) : Instr :=
  let y := fieldY op
  match R8.ofCode (fieldZ op) with
  | some s => pick8 y (.addR s) (.adcR s) (.subR s) (.sbcR s) (.andR s) (.xorR s) (.orR s) (.cpR s)
  | none => pick8 y .addHl .adcHl .subHl .sbcHl .andHl .xorHl .orHl .cpHl

/-- The quarter `op[7:6] = 3`, which holds the four prefixes. -/
def decode3 (op b1 b2 b3 : Byte) : Instr :=
  let y := fieldY op
  let pair := PairQq.ofCode (fieldP op)
  let cc := Cond.ofCode y
  let nn := wordOf b1 b2
  match (fieldZ op).toNat with
  | 0 => .retCc cc
  | 1 => pick8 y (.popQq pair) .ret (.popQq pair) .exx (.popQq pair) .jpHl (.popQq pair) .ldSpHl
  | 2 => .jpCcNn cc nn
  | 3 => pick8 y (.jpNn nn) (decodeCb b1) (.outNA b1) (.inAN b1) .exSpHl .exDeHl .di .ei
  | 4 => .callCcNn cc nn
  | 5 =>
    pick8 y (.pushQq pair) (.callNn nn) (.pushQq pair) (decodeXy .ix b1 b2 b3)
      (.pushQq pair) (decodeEd b1 b2 b3) (.pushQq pair) (decodeXy .iy b1 b2 b3)
  | 6 => pick8 y (.addN b1) (.adcN b1) (.subN b1) (.sbcN b1) (.andN b1) (.xorN b1) (.orN b1) (.cpN b1)
  | _ => .rst y

/-- THE DECODER: the one instruction that a byte and the three bytes after it in the stream select
(30_encoding.md R102, R115). Bytes past the instruction's own, and past a lone prefix's look-ahead byte,
play no part. -/
def decode4 (b0 b1 b2 b3 : Byte) : Instr :=
  match (fieldX b0).toNat with
  | 0 => decode0 b0 b1 b2
  | 1 => decode1 b0
  | 2 => decode2 b0
  | _ => decode3 b0 b1 b2 b3

/-! ### Formats and lengths (30_encoding.md R109, R120) -/

/-- Bytes of a format. -/
def Format.length : Format → Nat
  | .op | .xyLone => 1
  | .opN | .opE | .cbOp | .edOp | .xyOp => 2
  | .opNn | .xyOpD => 3
  | .edOpNn | .xyOpDN | .xyOpNn | .xyCbDOp => 4

/-- Opcode fetches (M1) of a format. -/
def Format.m1 : Format → Nat
  | .op | .opN | .opE | .opNn | .xyLone => 1
  | .cbOp | .edOp | .edOpNn | .xyOp | .xyOpD | .xyOpDN | .xyOpNn | .xyCbDOp => 2

/-- The format of an instruction. -/
def Instr.format : Instr → Format
  | .ldRR .. | .ldRHl .. | .ldHlR .. | .ldABc | .ldADe | .ldBcA | .ldDeA | .ldSpHl | .pushQq ..
  | .popQq .. | .exDeHl | .exAfAf | .exx | .exSpHl | .addR .. | .addHl | .adcR .. | .adcHl
  | .subR .. | .subHl | .sbcR .. | .sbcHl | .andR .. | .andHl | .orR .. | .orHl | .xorR .. | .xorHl
  | .cpR .. | .cpHl | .incR .. | .incHl | .decR .. | .decHl | .daa | .cpl | .ccf | .scf | .nop
  | .halt | .di | .ei | .addHlSs .. | .incSs .. | .decSs .. | .rlca | .rla | .rrca | .rra | .jpHl
  | .ret | .retCc .. | .rst .. => .op
  | .ldRN .. | .ldHlN .. | .addN .. | .adcN .. | .subN .. | .sbcN .. | .andN .. | .orN ..
  | .xorN .. | .cpN .. | .inAN .. | .outNA .. => .opN
  | .ldRIxD .. | .ldRIyD .. | .ldIxDR .. | .ldIyDR .. | .addIxD .. | .addIyD .. | .adcIxD ..
  | .adcIyD .. | .subIxD .. | .subIyD .. | .sbcIxD .. | .sbcIyD .. | .andIxD .. | .andIyD ..
  | .orIxD .. | .orIyD .. | .xorIxD .. | .xorIyD .. | .cpIxD .. | .cpIyD .. | .incIxD ..
  | .incIyD .. | .decIxD .. | .decIyD .. => .xyOpD
  | .ldIxDN .. | .ldIyDN .. => .xyOpDN
  | .ldANn .. | .ldNnA .. | .ldDdNn .. | .ldHlMem .. | .ldMemHl .. | .jpNn .. | .jpCcNn ..
  | .callNn .. | .callCcNn .. => .opNn
  | .ldAIreg | .ldARreg | .ldIregA | .ldRregA | .ldi | .ldir | .ldd | .lddr | .cpi | .cpir | .cpd
  | .cpdr | .neg | .im0 | .im1 | .im2 | .adcHlSs .. | .sbcHlSs .. | .rld | .rrd | .reti | .retn
  | .inRC .. | .ini | .inir | .ind | .indr | .outCR .. | .outi | .otir | .outd | .otdr | .nopEd .. => .edOp
  | .ldIxNn .. | .ldIyNn .. | .ldIxMem .. | .ldIyMem .. | .ldMemIx .. | .ldMemIy .. => .xyOpNn
  | .ldDdMem .. | .ldMemDd .. => .edOpNn
  | .ldSpIx | .ldSpIy | .pushIx | .pushIy | .popIx | .popIy | .exSpIx | .exSpIy | .addIxPp ..
  | .addIyRr .. | .incIx | .incIy | .decIx | .decIy | .jpIx | .jpIy => .xyOp
  | .rlcR .. | .rlcHl | .rlR .. | .rlHl | .rrcR .. | .rrcHl | .rrR .. | .rrHl | .slaR .. | .slaHl
  | .sraR .. | .sraHl | .srlR .. | .srlHl | .bitR .. | .bitHl .. | .setR .. | .setHl .. | .resR ..
  | .resHl .. | .nopCb .. => .cbOp
  | .rlcIxD .. | .rlcIyD .. | .rlIxD .. | .rlIyD .. | .rrcIxD .. | .rrcIyD .. | .rrIxD ..
  | .rrIyD .. | .slaIxD .. | .slaIyD .. | .sraIxD .. | .sraIyD .. | .srlIxD .. | .srlIyD ..
  | .bitIxD .. | .bitIyD .. | .setIxD .. | .setIyD .. | .resIxD .. | .resIyD .. | .nopDdCb ..
  | .nopFdCb .. => .xyCbDOp
  | .jr .. | .jrC .. | .jrNc .. | .jrZ .. | .jrNz .. | .djnz .. => .opE
  | .nopDd | .nopFd => .xyLone

/-- Bytes of an instruction (30_encoding.md R120). -/
def Instr.length (i : Instr) : Nat := i.format.length

/-- Opcode fetches of an instruction: how often it advances R (00_scope.md R13, 10_state.md R43). -/
def Instr.m1 (i : Instr) : Nat := i.format.m1

/-- Bytes the decoder looks at: an instruction's own, and for a lone prefix the byte it peeks at
(30_encoding.md R102 step 4, R118). -/
def Instr.lookAhead (i : Instr) : Nat :=
  match i.format with
  | .xyLone => 2
  | f => f.length

/-! ### Decoding a list of bytes -/

/-- Why a list of bytes decodes to no instruction. No encoding is illegal (30_encoding.md R115). -/
inductive DecodeError where
  /-- Raised by `decode` when the list ends inside an instruction. Safe: nothing runs. -/
  | truncated
deriving DecidableEq, Repr

/-- The first instruction of a list of bytes, with the rest of the list. -/
def decode (bs : List Byte) : Except DecodeError (Instr × List Byte) :=
  let i := decode4 (bs.getD 0 0) (bs.getD 1 0) (bs.getD 2 0) (bs.getD 3 0)
  if bs.length < i.lookAhead then .error .truncated else .ok (i, bs.drop i.length)

/-! ### The encoder (the `Encoding` lines of the instruction rules) -/

/-- A byte from the fields `op[7:6]`, `op[5:3]`, `op[2:0]`. -/
def byte233 (x : BitVec 2) (y z : BitVec 3) : Byte := x ++ y ++ z

/-- A byte from the fields `op[7:6]`, `op[5:4]`, `op[3:0]`. -/
def byte224 (x p : BitVec 2) (q : BitVec 4) : Byte := x ++ p ++ q

/-- THE ENCODER: an instruction's bytes in fetch order. -/
def encode : Instr → List Byte
  | .ldRR r s => [byte233 0b01 r.code s.code]
  | .ldRN r n => [byte233 0b00 r.code 0b110, n]
  | .ldRHl r => [byte233 0b01 r.code 0b110]
  | .ldRIxD r d => [0xDD, byte233 0b01 r.code 0b110, d]
  | .ldRIyD r d => [0xFD, byte233 0b01 r.code 0b110, d]
  | .ldHlR s => [byte233 0b01 0b110 s.code]
  | .ldIxDR s d => [0xDD, byte233 0b01 0b110 s.code, d]
  | .ldIyDR s d => [0xFD, byte233 0b01 0b110 s.code, d]
  | .ldHlN n => [0x36, n]
  | .ldIxDN d n => [0xDD, 0x36, d, n]
  | .ldIyDN d n => [0xFD, 0x36, d, n]
  | .ldABc => [0x0A]
  | .ldADe => [0x1A]
  | .ldANn nn => [0x3A, loByte nn, hiByte nn]
  | .ldBcA => [0x02]
  | .ldDeA => [0x12]
  | .ldNnA nn => [0x32, loByte nn, hiByte nn]
  | .ldAIreg => [0xED, 0x57]
  | .ldARreg => [0xED, 0x5F]
  | .ldIregA => [0xED, 0x47]
  | .ldRregA => [0xED, 0x4F]
  | .ldDdNn p nn => [byte224 0b00 p.code 0b0001, loByte nn, hiByte nn]
  | .ldIxNn nn => [0xDD, 0x21, loByte nn, hiByte nn]
  | .ldIyNn nn => [0xFD, 0x21, loByte nn, hiByte nn]
  | .ldHlMem nn => [0x2A, loByte nn, hiByte nn]
  | .ldDdMem p nn => [0xED, byte224 0b01 p.code 0b1011, loByte nn, hiByte nn]
  | .ldIxMem nn => [0xDD, 0x2A, loByte nn, hiByte nn]
  | .ldIyMem nn => [0xFD, 0x2A, loByte nn, hiByte nn]
  | .ldMemHl nn => [0x22, loByte nn, hiByte nn]
  | .ldMemDd p nn => [0xED, byte224 0b01 p.code 0b0011, loByte nn, hiByte nn]
  | .ldMemIx nn => [0xDD, 0x22, loByte nn, hiByte nn]
  | .ldMemIy nn => [0xFD, 0x22, loByte nn, hiByte nn]
  | .ldSpHl => [0xF9]
  | .ldSpIx => [0xDD, 0xF9]
  | .ldSpIy => [0xFD, 0xF9]
  | .pushQq p => [byte224 0b11 p.code 0b0101]
  | .pushIx => [0xDD, 0xE5]
  | .pushIy => [0xFD, 0xE5]
  | .popQq p => [byte224 0b11 p.code 0b0001]
  | .popIx => [0xDD, 0xE1]
  | .popIy => [0xFD, 0xE1]
  | .exDeHl => [0xEB]
  | .exAfAf => [0x08]
  | .exx => [0xD9]
  | .exSpHl => [0xE3]
  | .exSpIx => [0xDD, 0xE3]
  | .exSpIy => [0xFD, 0xE3]
  | .ldi => [0xED, 0xA0]
  | .ldir => [0xED, 0xB0]
  | .ldd => [0xED, 0xA8]
  | .lddr => [0xED, 0xB8]
  | .cpi => [0xED, 0xA1]
  | .cpir => [0xED, 0xB1]
  | .cpd => [0xED, 0xA9]
  | .cpdr => [0xED, 0xB9]
  | .addR s => [byte233 0b10 0b000 s.code]
  | .addN n => [0xC6, n]
  | .addHl => [0x86]
  | .addIxD d => [0xDD, 0x86, d]
  | .addIyD d => [0xFD, 0x86, d]
  | .adcR s => [byte233 0b10 0b001 s.code]
  | .adcN n => [0xCE, n]
  | .adcHl => [0x8E]
  | .adcIxD d => [0xDD, 0x8E, d]
  | .adcIyD d => [0xFD, 0x8E, d]
  | .subR s => [byte233 0b10 0b010 s.code]
  | .subN n => [0xD6, n]
  | .subHl => [0x96]
  | .subIxD d => [0xDD, 0x96, d]
  | .subIyD d => [0xFD, 0x96, d]
  | .sbcR s => [byte233 0b10 0b011 s.code]
  | .sbcN n => [0xDE, n]
  | .sbcHl => [0x9E]
  | .sbcIxD d => [0xDD, 0x9E, d]
  | .sbcIyD d => [0xFD, 0x9E, d]
  | .andR s => [byte233 0b10 0b100 s.code]
  | .andN n => [0xE6, n]
  | .andHl => [0xA6]
  | .andIxD d => [0xDD, 0xA6, d]
  | .andIyD d => [0xFD, 0xA6, d]
  | .orR s => [byte233 0b10 0b110 s.code]
  | .orN n => [0xF6, n]
  | .orHl => [0xB6]
  | .orIxD d => [0xDD, 0xB6, d]
  | .orIyD d => [0xFD, 0xB6, d]
  | .xorR s => [byte233 0b10 0b101 s.code]
  | .xorN n => [0xEE, n]
  | .xorHl => [0xAE]
  | .xorIxD d => [0xDD, 0xAE, d]
  | .xorIyD d => [0xFD, 0xAE, d]
  | .cpR s => [byte233 0b10 0b111 s.code]
  | .cpN n => [0xFE, n]
  | .cpHl => [0xBE]
  | .cpIxD d => [0xDD, 0xBE, d]
  | .cpIyD d => [0xFD, 0xBE, d]
  | .incR r => [byte233 0b00 r.code 0b100]
  | .incHl => [0x34]
  | .incIxD d => [0xDD, 0x34, d]
  | .incIyD d => [0xFD, 0x34, d]
  | .decR r => [byte233 0b00 r.code 0b101]
  | .decHl => [0x35]
  | .decIxD d => [0xDD, 0x35, d]
  | .decIyD d => [0xFD, 0x35, d]
  | .daa => [0x27]
  | .cpl => [0x2F]
  | .neg => [0xED, 0x44]
  | .ccf => [0x3F]
  | .scf => [0x37]
  | .nop => [0x00]
  | .halt => [0x76]
  | .di => [0xF3]
  | .ei => [0xFB]
  | .im0 => [0xED, 0x46]
  | .im1 => [0xED, 0x56]
  | .im2 => [0xED, 0x5E]
  | .addHlSs p => [byte224 0b00 p.code 0b1001]
  | .adcHlSs p => [0xED, byte224 0b01 p.code 0b1010]
  | .sbcHlSs p => [0xED, byte224 0b01 p.code 0b0010]
  | .addIxPp p => [0xDD, byte224 0b00 p.code 0b1001]
  | .addIyRr p => [0xFD, byte224 0b00 p.code 0b1001]
  | .incSs p => [byte224 0b00 p.code 0b0011]
  | .incIx => [0xDD, 0x23]
  | .incIy => [0xFD, 0x23]
  | .decSs p => [byte224 0b00 p.code 0b1011]
  | .decIx => [0xDD, 0x2B]
  | .decIy => [0xFD, 0x2B]
  | .rlca => [0x07]
  | .rla => [0x17]
  | .rrca => [0x0F]
  | .rra => [0x1F]
  | .rlcR s => [0xCB, byte233 0b00 0b000 s.code]
  | .rlcHl => [0xCB, 0x06]
  | .rlcIxD d => [0xDD, 0xCB, d, 0x06]
  | .rlcIyD d => [0xFD, 0xCB, d, 0x06]
  | .rlR s => [0xCB, byte233 0b00 0b010 s.code]
  | .rlHl => [0xCB, 0x16]
  | .rlIxD d => [0xDD, 0xCB, d, 0x16]
  | .rlIyD d => [0xFD, 0xCB, d, 0x16]
  | .rrcR s => [0xCB, byte233 0b00 0b001 s.code]
  | .rrcHl => [0xCB, 0x0E]
  | .rrcIxD d => [0xDD, 0xCB, d, 0x0E]
  | .rrcIyD d => [0xFD, 0xCB, d, 0x0E]
  | .rrR s => [0xCB, byte233 0b00 0b011 s.code]
  | .rrHl => [0xCB, 0x1E]
  | .rrIxD d => [0xDD, 0xCB, d, 0x1E]
  | .rrIyD d => [0xFD, 0xCB, d, 0x1E]
  | .slaR s => [0xCB, byte233 0b00 0b100 s.code]
  | .slaHl => [0xCB, 0x26]
  | .slaIxD d => [0xDD, 0xCB, d, 0x26]
  | .slaIyD d => [0xFD, 0xCB, d, 0x26]
  | .sraR s => [0xCB, byte233 0b00 0b101 s.code]
  | .sraHl => [0xCB, 0x2E]
  | .sraIxD d => [0xDD, 0xCB, d, 0x2E]
  | .sraIyD d => [0xFD, 0xCB, d, 0x2E]
  | .srlR s => [0xCB, byte233 0b00 0b111 s.code]
  | .srlHl => [0xCB, 0x3E]
  | .srlIxD d => [0xDD, 0xCB, d, 0x3E]
  | .srlIyD d => [0xFD, 0xCB, d, 0x3E]
  | .rld => [0xED, 0x6F]
  | .rrd => [0xED, 0x67]
  | .bitR b s => [0xCB, byte233 0b01 b s.code]
  | .bitHl b => [0xCB, byte233 0b01 b 0b110]
  | .bitIxD b d => [0xDD, 0xCB, d, byte233 0b01 b 0b110]
  | .bitIyD b d => [0xFD, 0xCB, d, byte233 0b01 b 0b110]
  | .setR b s => [0xCB, byte233 0b11 b s.code]
  | .setHl b => [0xCB, byte233 0b11 b 0b110]
  | .setIxD b d => [0xDD, 0xCB, d, byte233 0b11 b 0b110]
  | .setIyD b d => [0xFD, 0xCB, d, byte233 0b11 b 0b110]
  | .resR b s => [0xCB, byte233 0b10 b s.code]
  | .resHl b => [0xCB, byte233 0b10 b 0b110]
  | .resIxD b d => [0xDD, 0xCB, d, byte233 0b10 b 0b110]
  | .resIyD b d => [0xFD, 0xCB, d, byte233 0b10 b 0b110]
  | .jpNn nn => [0xC3, loByte nn, hiByte nn]
  | .jpCcNn cc nn => [byte233 0b11 cc.code 0b010, loByte nn, hiByte nn]
  | .jr e => [0x18, e]
  | .jrC e => [0x38, e]
  | .jrNc e => [0x30, e]
  | .jrZ e => [0x28, e]
  | .jrNz e => [0x20, e]
  | .jpHl => [0xE9]
  | .jpIx => [0xDD, 0xE9]
  | .jpIy => [0xFD, 0xE9]
  | .djnz e => [0x10, e]
  | .callNn nn => [0xCD, loByte nn, hiByte nn]
  | .callCcNn cc nn => [byte233 0b11 cc.code 0b100, loByte nn, hiByte nn]
  | .ret => [0xC9]
  | .retCc cc => [byte233 0b11 cc.code 0b000]
  | .reti => [0xED, 0x4D]
  | .retn => [0xED, 0x45]
  | .rst t => [byte233 0b11 t 0b111]
  | .inAN n => [0xDB, n]
  | .inRC r => [0xED, byte233 0b01 r.code 0b000]
  | .ini => [0xED, 0xA2]
  | .inir => [0xED, 0xB2]
  | .ind => [0xED, 0xAA]
  | .indr => [0xED, 0xBA]
  | .outNA n => [0xD3, n]
  | .outCR s => [0xED, byte233 0b01 s.code 0b001]
  | .outi => [0xED, 0xA3]
  | .otir => [0xED, 0xB3]
  | .outd => [0xED, 0xAB]
  | .otdr => [0xED, 0xBB]
  | .nopEd op => [0xED, op]
  | .nopCb s => [0xCB, byte233 0b00 0b110 s]
  | .nopDd => [0xDD]
  | .nopDdCb d op => [0xDD, 0xCB, d, op]
  | .nopFd => [0xFD]
  | .nopFdCb d op => [0xFD, 0xCB, d, op]

/-! ### The words of the opcode table -/

/-- The bytes of a number, most significant first, without leading zero bytes. -/
def bytesOfNat (fuel w : Nat) : List Byte :=
  match fuel with
  | 0 => []
  | k + 1 => if w = 0 then [] else bytesOfNat k (w / 256) ++ [BitVec.ofNat 8 (w % 256)]

/-- The four prefix bytes (30_encoding.md R102). -/
def isPrefixByte (b : Byte) : Bool :=
  b = 0xCB || b = 0xED || b = 0xDD || b = 0xFD

/-- The four stream bytes of a table word. The table joins the bytes of a row with the FIRST byte most
significant (30_encoding.md R123), and every row of more than one byte begins with a prefix; a word whose
most significant byte is no prefix is read with its first byte least significant.
DESIGN CHOICE, unsafe (log entry 11). -/
def tableBytes (nbits w : Nat) : List Byte :=
  let bs := bytesOfNat 4 (w % 2 ^ nbits)
  let stream := if isPrefixByte (bs.headD 0) then bs else bs.reverse
  (stream ++ [0, 0, 0, 0]).take 4

/-- The instruction the decoder reads from a word of spec/opcode_table.json (log entry 11). -/
def decodeTableWord (nbits w : Nat) : Option Instr :=
  match decode (tableBytes nbits w) with
  | .ok (i, _) => some i
  | .error _ => none

end Sys2Proof
end

