-- ==== Sys2Proof/Config.lean ====
section
/-! DEFINITION. The parameters of the hardware (00_scope.md R6) and the free values: what the spec
leaves open. A constant declared `opaque` has no body, so nothing can be proved about its value. -/

namespace Sys2Proof.Config

/-- Cells of the memory space (20_memory.md R70). -/
def memCells : Nat := 65536

/-- Slots of the I/O port table (10_state.md R52). -/
def portSlots : Nat := 256

/-- What a memory address nothing has listed reads as. `MEM_INIT` is a parameter of a run
(20_memory.md R71); 0x00 is the value the spec's own runs use.
DESIGN CHOICE, unsafe: a proof could lean on it (log entry 2). -/
def memInit : Byte := 0

/-- The parameter `RESET_GPR`: reset values of the registers the spec leaves as an argument
(00_scope.md R6, 10_state.md R56). -/
structure ResetGpr where
  af : Word
  bc : Word
  de : Word
  hl : Word
  afShadow : Word
  bcShadow : Word
  deShadow : Word
  hlShadow : Word
  ix : Word
  iy : Word
  sp : Word
  wz : Word
deriving DecidableEq, Repr

/-- `RESET_GPR` at its default, all 0x0000 (00_scope.md R6, decision D1).
DESIGN CHOICE, unsafe (log entry 1). -/
def resetGpr : ResetGpr :=
  ⟨0, 0, 0, 0, 0, 0, 0, 0, 0, 0, 0, 0⟩

/-- One call the core made on a device (20_memory.md R86). -/
inductive DevEvent where
  /-- `read_in`, with the byte it returned. -/
  | readIn (v : Byte)
  /-- `write_out`, with the byte written. -/
  | writeOut (v : Byte)
deriving DecidableEq, Repr

/-- FREE VALUE: the n-th value WZ takes (10_state.md R44: "Its value after any instruction is
unspecified"). DESIGN CHOICE of form, safe (log entry 4). -/
opaque wzScratch : Nat → Word

/-- One access of the core to the Memory port (20_memory.md R70, R78). -/
inductive MemAccess where
  /-- `read_byte` at an address. -/
  | read (a : Word)
  /-- `write_byte` of a byte at an address. -/
  | write (a : Word) (v : Byte)
deriving DecidableEq, Repr

/-- FREE VALUE: what the Memory provider of a given number answers to `read_byte` at an address after a
given history of accesses (latest first) (20_memory.md R71: the core assumes nothing about the provider's
representation). DESIGN CHOICE of form, safe (log entry 7). -/
opaque hostMemory : Nat → List MemAccess → Word → Byte

/-- FREE VALUE: what the device of a given number answers to `read_in` after a given history of calls
(latest first), once the answers the host arranged are used up (20_memory.md R86: the core assumes
nothing about a device). DESIGN CHOICE of form, safe (log entry 5). -/
opaque deviceAnswer : Nat → List DevEvent → Byte

end Sys2Proof.Config
end

