-- ==== Sys2Proof/Machine/State.lean ====
section
/-! DEFINITION. The state of the machine (10_state.md R30), the reasons a step can stop, and the state
after reset (R56). Plain data throughout; reads and writes go through Machine/Ops.lean. -/

namespace Sys2Proof.Machine

/-- A register set: main or shadow (10_state.md R31, R32). -/
structure Regs where
  a : Byte
  f : Byte
  b : Byte
  c : Byte
  d : Byte
  e : Byte
  h : Byte
  l : Byte
deriving DecidableEq, Repr

/-- The interrupt mode; the value 3 never occurs (10_state.md R46). -/
inductive IntMode where
  | im0 | im1 | im2
deriving DecidableEq, Repr

/-- The agents that can hold the controller's lock (00_scope.md R23, 60_exceptions.md R350). The Host
thread posting between calls is a poster too. -/
inductive Agent where
  | core
  | poster (k : Nat)
deriving DecidableEq, Repr

/-- The lock of the interrupt controller (10_state.md R51). -/
inductive Lock where
  | free
  | held (by_ : Agent)
  | invalid
deriving DecidableEq, Repr

/-- The life of an instance (10_state.md R57). -/
inductive Handle where
  | live
  | tornDown
deriving DecidableEq, Repr

/-- The state of one I/O device, the host's (20_memory.md R86): the answers its host has arranged for the
coming `read_in` calls, first one first, and the calls made on it, latest first (log entry 5). -/
structure Device where
  answers : List Byte
  calls : List Config.DevEvent
deriving DecidableEq, Repr

/-- The cells of a provider that keeps its bytes in cells (20_memory.md R71): those that differ from
`Config.memInit`, at strictly rising numbers. -/
abbrev Memory := List Host.Cell

/-- What stands behind the addresses of a region of a provider. -/
inductive Backing where
  /-- Cells from `base` on, read-only when not `writable`: RAM, ROM, a mirror. -/
  | cells (base : Nat) (writable : Bool)
  /-- No cells: reads give `v`, writes are ignored. -/
  | absent (v : Byte)
deriving DecidableEq, Repr

/-- A region of a provider's address space: `size` addresses from `first` on. -/
structure Region where
  first : Nat
  size : Nat
  backing : Backing
deriving DecidableEq, Repr

/-- THE MEMORY PROVIDER, the parameter `MEM` with its state M (20_memory.md R71, log entry 7). -/
inductive Provider where
  /-- Cells behind a map of regions, the first that holds an address counting; an address in no region is
  the writable cell of its own number. Without regions this is the reference provider. -/
  | backed (regions : List Region) (cells : Memory)
  /-- Any other provider: its number, and the accesses made on it, latest first. What it answers is a free
  value of these. -/
  | host (id : Nat) (log : List Config.MemAccess)
deriving DecidableEq, Repr

/-- The reference provider: flat RAM (20_memory.md R71). -/
def Provider.reference (cells : Memory) : Provider := .backed [] cells

/-- THE STATE (10_state.md R30). -/
structure State where
  /-- A, F, B, C, D, E, H, L (R31). -/
  main : Regs
  /-- A', F', B', C', D', E', H', L' (R32). -/
  shadow : Regs
  /-- IX (R33). -/
  ix : Word
  /-- IY (R33). -/
  iy : Word
  /-- SP (R34). -/
  sp : Word
  /-- PC (R35). -/
  pc : Word
  /-- I, the interrupt vector base (R40). -/
  iReg : Byte
  /-- R, the refresh register (R41). -/
  rReg : Byte
  /-- WZ (R44); its value is a free value after every instruction (log entry 4). -/
  wz : Word
  /-- The interrupt-enable flip-flop that gates acceptance (R45). -/
  iff1 : Bool
  /-- The flip-flop that decides between halted and hung (R45). -/
  iff2 : Bool
  /-- The interrupt mode (R46). -/
  im : IntMode
  /-- HALT executed and not yet released (R47). -/
  halted : Bool
  /-- The one-instruction EI delay (R48). -/
  eiDelay : Bool
  /-- The interrupt line's pending flag (R50). -/
  icPending : Bool
  /-- The interrupt line's bus value (R50). -/
  icBus : Byte
  /-- The lock of the interrupt line (R51). -/
  icLock : Lock
  /-- The occupied slots of the I/O port table (R52): a port number and the number of the device the slot
  refers to, ports strictly rising and below 256. An unlisted port is an empty slot. -/
  ports : List (Nat × Nat)
  /-- The states of the devices, by device number, numbers strictly rising (20_memory.md R86). -/
  devices : List (Nat × Device)
  /-- The Memory slot: a provider is installed (R53). -/
  memInstalled : Bool
  /-- The installed provider with its state; means nothing while none is installed (20_memory.md R71). -/
  mem : Provider
  /-- Live or torn down (R57). -/
  handle : Handle
  /-- THE MODEL'S OWN FIELD: how many free values WZ has taken (log entry 4). -/
  wzSeq : Nat
deriving DecidableEq, Repr

/-- Why `step` runs no iteration. No meaning of an instruction raises one (00_scope.md R12,
60_exceptions.md R363). Each is safe: the machine itself does not go on there. -/
inductive Fault where
  /-- Raised by `step` on a TornDown handle: `execute` returns `Error(InvalidState)` (60_exceptions.md
  R341, 70_reset_and_hazards.md R408). Safe. -/
  | tornDown
  /-- Raised by `step` when no Memory provider is installed: `execute` returns `Error(InvalidState)`
  (60_exceptions.md R341). Safe. -/
  | noMemory
  /-- Raised by `step` in the hung state, which runs no iteration: `execute` returns `Hung`
  (60_exceptions.md R345). Safe. -/
  | hung
  /-- Raised by `step` when the sample finds the lock Invalid: `Abort(InvalidState)` (60_exceptions.md
  R359). Safe. -/
  | lockInvalid
  /-- Raised by `step` when the sample finds the lock held by the Core: `Abort(Deadlock)`
  (60_exceptions.md R359). Safe. -/
  | lockDeadlock
  /-- Raised by `step` when a poster holds the lock: the sample is not enabled and the Core waits
  (60_exceptions.md R359). A stuck state until the poster releases. Safe. -/
  | lockWait
deriving DecidableEq, Repr

/-- Why an instruction has no meaning. -/
inductive Refusal where
  /-- Raised by `exec` for an instruction the model does not give a meaning yet. Safe: it stops. No arm of
  this model raises it. -/
  | notModelled (mnemonic : String)
deriving DecidableEq, Repr

/-- A register set from its four pairs: the first-named register is the high byte (10_state.md R31). -/
def Regs.ofPairs (af bc de hl : Word) : Regs :=
  { a := af.extractLsb' 8 8, f := af.extractLsb' 0 8
    b := bc.extractLsb' 8 8, c := bc.extractLsb' 0 8
    d := de.extractLsb' 8 8, e := de.extractLsb' 0 8
    h := hl.extractLsb' 8 8, l := hl.extractLsb' 0 8 }

/-- The `init` column of 10_state.md R56, for a value of `RESET_GPR`: nothing is installed. -/
def State.initWith (g : Config.ResetGpr) : State :=
  { main := Regs.ofPairs g.af g.bc g.de g.hl
    shadow := Regs.ofPairs g.afShadow g.bcShadow g.deShadow g.hlShadow
    ix := g.ix, iy := g.iy, sp := g.sp, pc := 0
    iReg := 0, rReg := 0, wz := g.wz
    iff1 := false, iff2 := false, im := .im0, halted := false, eiDelay := false
    icPending := false, icBus := 0, icLock := .free
    ports := [], devices := []
    memInstalled := false, mem := .reference []
    handle := .live
    wzSeq := 0 }

/-- THE STATE RIGHT AFTER RESET (10_state.md R56, 70_reset_and_hazards.md R401, R402) of a machine whose
host has installed the reference Memory provider, with nothing listed, and no device.
DESIGN CHOICE, unsafe: the wiring and the `RESET_GPR` values (log entries 1, 2 and 3). -/
def State.reset : State :=
  { State.initWith Config.resetGpr with memInstalled := true }

end Sys2Proof.Machine
end

