-- ==== Sys2Proof/Machine/Ops.lean ====
section
/-! DEFINITION. The named operations over memory, ports and registers, and taking and leaving an
interrupt. Every read and write of the state by a meaning goes through these. -/

namespace Sys2Proof.Machine

/-! ### Sparse tables: lists of (key, value), keys strictly rising -/

/-- The value listed for a key. -/
def tableGet {α : Type} : List (Nat × α) → Nat → Option α
  | [], _ => none
  | (k, v) :: t, q => if k = q then some v else tableGet t q

/-- List a value for a key, in the key's place. -/
def tablePut {α : Type} : List (Nat × α) → Nat → α → List (Nat × α)
  | [], q, w => [(q, w)]
  | (k, v) :: t, q, w =>
    if q < k then (q, w) :: (k, v) :: t
    else if q = k then (q, w) :: t
    else (k, v) :: tablePut t q w

/-- Take a key out. -/
def tableErase {α : Type} : List (Nat × α) → Nat → List (Nat × α)
  | [], _ => []
  | (k, v) :: t, q => if k = q then tableErase t q else (k, v) :: tableErase t q

/-- Every key is above `lo`. -/
def tableAbove {α : Type} (lo : Nat) (t : List (Nat × α)) : Bool :=
  t.all fun kv => lo < kv.1

/-- The keys are strictly rising. -/
def tableSorted {α : Type} : List (Nat × α) → Bool
  | [] => true
  | (k, _) :: t => tableAbove k t && tableSorted t

/-! ### Memory (20_memory.md R70 to R77) -/

/-- The cell at an address; an unlisted one reads `Config.memInit` (log entry 2). -/
def Memory.read (m : Memory) (a : Nat) : Byte :=
  (tableGet m a).getD Config.memInit

/-- The cells after a write; the canonical form lists no cell equal to `Config.memInit`. -/
def Memory.write (m : Memory) (a : Nat) (v : Byte) : Memory :=
  if v = Config.memInit then tableErase m a else tablePut m a v

/-- The canonical form: numbers strictly rising, inside the space (R70), no cell at its unlisted value. -/
def Memory.wf (m : Memory) : Bool :=
  tableSorted m && m.all fun c => decide (c.1 < Config.memCells) && c.2 != Config.memInit

/-- The cells from any list of them, the later ones last, numbers modulo 65536. -/
def Memory.ofCells (cs : List Host.Cell) : Memory :=
  cs.foldl (fun m c => Memory.write m (c.1 % Config.memCells) c.2) []

/-- The cells after bytes are written at rising numbers modulo 65536. -/
def Memory.writeBytes (m : Memory) (a : Word) : List Byte → Memory
  | [] => m
  | v :: vs => Memory.writeBytes (Memory.write m a.toNat v) (a + 1) vs

/-- What stands behind address `a`: one cell, or none. -/
def resolve : List Region → Nat → Backing
  | [], a => .cells a true
  | r :: rs, a =>
    if r.first ≤ a ∧ a < r.first + r.size then
      match r.backing with
      | .cells base w => .cells ((base + (a - r.first)) % Config.memCells) w
      | .absent v => .absent v
    else resolve rs a

/-- The provider's `read_byte` (20_memory.md R71): the byte it answers in its present state. -/
def Provider.read (m : Provider) (a : Word) : Byte :=
  match m with
  | .backed rs cs =>
    match resolve rs a.toNat with
    | .cells k _ => Memory.read cs k
    | .absent v => v
  | .host id log => Config.hostMemory id log a

/-- The provider's state after one access. A backed provider changes by writes to writable cells only; any
other has one more access in its history. -/
def Provider.access (m : Provider) (x : Config.MemAccess) : Provider :=
  match m, x with
  | .backed rs cs, .read _ => .backed rs cs
  | .backed rs cs, .write a v =>
    match resolve rs a.toNat with
    | .cells k true => .backed rs (Memory.write cs k v)
    | .cells _ false => .backed rs cs
    | .absent _ => .backed rs cs
  | .host id log, y => .host id (y :: log)

/-- The provider's state after a list of accesses, first one first. -/
def Provider.after (m : Provider) (xs : List Config.MemAccess) : Provider :=
  xs.foldl Provider.access m

/-- The reference provider, which claims about single bytes of memory are made for (20_memory.md R71). -/
def Provider.isReference : Provider → Bool
  | .backed [] _ => true
  | .backed (_ :: _) _ => false
  | .host .. => false

/-- The cells a backed provider holds. -/
def Provider.cells : Provider → Memory
  | .backed _ cs => cs
  | .host .. => []

/-- A provider with its cells in canonical form. -/
def Provider.canonical : Provider → Provider
  | .backed rs cs => .backed rs (Memory.ofCells cs)
  | .host id log => .host id log

/-- A provider's cells are in canonical form. -/
def Provider.wf (m : Provider) : Bool := Memory.wf m.cells

/-- The byte `MemRead(a, 1)` returns (20_memory.md R72). -/
def State.readByte (s : State) (a : Word) : Byte := s.mem.read a

/-- What `MemRead(a, 1)` does: exactly one `read_byte` on the provider (20_memory.md R72). -/
def State.afterRead (s : State) (a : Word) : State :=
  { s with mem := s.mem.access (.read a) }

/-- `MemWrite(a, 1, v)`: exactly one `write_byte` on the provider (20_memory.md R73). -/
def State.writeByte (s : State) (a : Word) (v : Byte) : State :=
  { s with mem := s.mem.access (.write a v) }

/-- The word `MemRead(a, 2)` returns: low byte at `a`, then high byte at `a + 1` modulo 65536
(20_memory.md R74). -/
def State.readWord (s : State) (a : Word) : Word :=
  wordOf (s.readByte a) ((s.afterRead a).readByte (a + 1))

/-- What `MemRead(a, 2)` does: two byte reads (20_memory.md R74). -/
def State.afterReadWord (s : State) (a : Word) : State :=
  (s.afterRead a).afterRead (a + 1)

/-- `MemWrite(a, 2, w)`: low byte at `a`, then high byte at `a + 1` modulo 65536 (20_memory.md R75). -/
def State.writeWord (s : State) (a : Word) (w : Word) : State :=
  (s.writeByte a (loByte w)).writeByte (a + 1) (hiByte w)

/-! ### Registers (10_state.md R31 to R43) -/

/-- `R8[c]` read. -/
def State.getR8 (s : State) : R8 → Byte
  | .a => s.main.a
  | .b => s.main.b
  | .c => s.main.c
  | .d => s.main.d
  | .e => s.main.e
  | .h => s.main.h
  | .l => s.main.l

/-- `R8[c] <- v`. -/
def State.setR8 (s : State) (r : R8) (v : Byte) : State :=
  match r with
  | .a => { s with main := { s.main with a := v } }
  | .b => { s with main := { s.main with b := v } }
  | .c => { s with main := { s.main with c := v } }
  | .d => { s with main := { s.main with d := v } }
  | .e => { s with main := { s.main with e := v } }
  | .h => { s with main := { s.main with h := v } }
  | .l => { s with main := { s.main with l := v } }

/-- `F <- v`, the whole byte. -/
def State.setF (s : State) (v : Byte) : State :=
  { s with main := { s.main with f := v } }

/-- `AF = A ++ F` (R31). -/
def Regs.af (g : Regs) : Word := wordOf g.f g.a

/-- `BC = B ++ C` (R31). -/
def Regs.bc (g : Regs) : Word := wordOf g.c g.b

/-- `DE = D ++ E` (R31). -/
def Regs.de (g : Regs) : Word := wordOf g.e g.d

/-- `HL = H ++ L` (R31). -/
def Regs.hl (g : Regs) : Word := wordOf g.l g.h

/-- AF read. -/
def State.af (s : State) : Word := s.main.af

/-- BC read. -/
def State.bc (s : State) : Word := s.main.bc

/-- DE read. -/
def State.de (s : State) : Word := s.main.de

/-- HL read. -/
def State.hl (s : State) : Word := s.main.hl

/-- `AF <- w`: both halves, all 8 bits of F (R31, R38). -/
def State.setAF (s : State) (w : Word) : State :=
  { s with main := { s.main with a := hiByte w, f := loByte w } }

/-- `BC <- w`: both halves (R31). -/
def State.setBC (s : State) (w : Word) : State :=
  { s with main := { s.main with b := hiByte w, c := loByte w } }

/-- `DE <- w`: both halves (R31). -/
def State.setDE (s : State) (w : Word) : State :=
  { s with main := { s.main with d := hiByte w, e := loByte w } }

/-- `HL <- w`: both halves (R31). -/
def State.setHL (s : State) (w : Word) : State :=
  { s with main := { s.main with h := hiByte w, l := loByte w } }

/-- `SP <- w` (R34). -/
def State.setSP (s : State) (w : Word) : State := { s with sp := w }

/-- `PC <- w` (R35). -/
def State.setPC (s : State) (w : Word) : State := { s with pc := w }

/-- IX or IY read (R33). -/
def State.getIdx (s : State) : Idx → Word
  | .ix => s.ix
  | .iy => s.iy

/-- `IX <- w` or `IY <- w` (R33). -/
def State.setIdx (s : State) (x : Idx) (w : Word) : State :=
  match x with
  | .ix => { s with ix := w }
  | .iy => { s with iy := w }

/-- `dd[c]`, `ss[c]` read (30_encoding.md R104). -/
def State.getDd (s : State) : PairDd → Word
  | .bc => s.bc
  | .de => s.de
  | .hl => s.hl
  | .sp => s.sp

/-- `dd[c] <- w`. -/
def State.setDd (s : State) (p : PairDd) (w : Word) : State :=
  match p with
  | .bc => s.setBC w
  | .de => s.setDE w
  | .hl => s.setHL w
  | .sp => s.setSP w

/-- `qq[c]` read (30_encoding.md R104). -/
def State.getQq (s : State) : PairQq → Word
  | .bc => s.bc
  | .de => s.de
  | .hl => s.hl
  | .af => s.af

/-- `qq[c] <- w`. -/
def State.setQq (s : State) (p : PairQq) (w : Word) : State :=
  match p with
  | .bc => s.setBC w
  | .de => s.setDE w
  | .hl => s.setHL w
  | .af => s.setAF w

/-- `pp[c]` (IX) and `rr[c]` (IY) read (30_encoding.md R104). -/
def State.getPp (s : State) (x : Idx) : PairPp → Word
  | .bc => s.bc
  | .de => s.de
  | .xy => s.getIdx x
  | .sp => s.sp

/-- `IncR` of a value: bits 6 to 0 count modulo 128, bit 7 is kept (10_state.md R43). -/
def incR (r : Byte) : Byte := (r &&& 0x80) ||| ((r + 1) &&& 0x7F)

/-- `IncR` performed n times (10_state.md R43). -/
def State.advanceR (s : State) : Nat → State
  | 0 => s
  | n + 1 => State.advanceR { s with rReg := incR s.rReg } n

/-! ### Addresses -/

/-- `sext_16(b)` (00_scope.md R8). -/
def sext16 (b : Byte) : Word := b.signExtend 16

/-- `ea = (X + sext_16(d)) mod 65536` (30_encoding.md R108). -/
def State.ea (s : State) (x : Idx) (d : Byte) : Word := s.getIdx x + sext16 d

/-- The target of a relative jump: PC is already past the instruction (30_encoding.md R108). -/
def State.relTarget (s : State) (e : Byte) : Word := s.pc + sext16 e

/-! ### The stack (00_scope.md R21) -/

/-- `Push(w)`: high byte to SP-1, then low byte to SP-2, SP down by 2, all modulo 65536. -/
def State.push (s : State) (w : Word) : State :=
  ((s.writeByte (s.sp - 1) (hiByte w)).writeByte (s.sp - 2) (loByte w)).setSP (s.sp - 2)

/-- The word `Pop()` returns: low byte from SP, high byte from SP+1. -/
def State.top (s : State) : Word := s.readWord s.sp

/-- What `Pop()` does to the state: two byte reads, SP up by 2 modulo 65536. -/
def State.dropTop (s : State) : State := (s.afterReadWord s.sp).setSP (s.sp + 2)

/-! ### The I/O ports (20_memory.md R85 to R88) -/

/-- The state of a device; one that is not listed has no answer arranged and no call made
(log entry 6). -/
def State.device (s : State) (id : Nat) : Device :=
  (tableGet s.devices id).getD ⟨[], []⟩

/-- Put a device's state back. -/
def State.setDevice (s : State) (id : Nat) (d : Device) : State :=
  { s with devices := tablePut s.devices id d }

/-- The byte a device's next `read_in` returns: the first arranged answer, else a free value
(log entry 5). -/
def Device.answer (id : Nat) (d : Device) : Byte :=
  d.answers.headD (Config.deviceAnswer id d.calls)

/-- The device after that `read_in`. -/
def Device.afterRead (id : Nat) (d : Device) : Device :=
  { answers := d.answers.tail, calls := .readIn (Device.answer id d) :: d.calls }

/-- The device after one `write_out`. -/
def Device.afterWrite (d : Device) (v : Byte) : Device :=
  { d with calls := .writeOut v :: d.calls }

/-- The byte `IoRead(p)` returns; an empty slot gives 0x00 (20_memory.md R87). -/
def State.ioValue (s : State) (p : Byte) : Byte :=
  match tableGet s.ports p.toNat with
  | none => 0
  | some id => Device.answer id (s.device id)

/-- What `IoRead(p)` does to the state: exactly one `read_in` on the slot's device, nothing for an empty
slot (20_memory.md R87). -/
def State.afterIoRead (s : State) (p : Byte) : State :=
  match tableGet s.ports p.toNat with
  | none => s
  | some id => s.setDevice id (Device.afterRead id (s.device id))

/-- `IoWrite(p, v)`: exactly one `write_out(v)` on the slot's device, nothing for an empty slot
(20_memory.md R88). -/
def State.ioWrite (s : State) (p v : Byte) : State :=
  match tableGet s.ports p.toNat with
  | none => s
  | some id => s.setDevice id (Device.afterWrite (s.device id) v)

/-! ### Taking an interrupt and returning from one (60_exceptions.md R354 to R361)

Machine/Iteration.lean dispatches on the mode; mode 0 runs the injected instruction there. -/

/-- The hung state (10_state.md R47, 60_exceptions.md R345). -/
def State.hung (s : State) : Bool := s.halted && !s.iff2

/-- The acceptance condition of an iteration that begins in `s` (60_exceptions.md R354). -/
def State.accepts (s : State) : Bool := s.iff1 && !s.eiDelay && s.icPending

/-- Steps (1) to (3) of `Accept`: the controller Idle with its bus value kept, both flip-flops cleared,
halted released (60_exceptions.md R355). -/
def State.acceptCommon (s : State) : State :=
  { s with icPending := false, iff1 := false, iff2 := false, halted := false }

/-- Mode 1: IncR, push PC, go to 0x0038 (60_exceptions.md R357). -/
def State.acceptMode1 (s : State) : State :=
  let t := s.advanceR 1
  (t.push t.pc).setPC 0x0038

/-- Mode 2: IncR, push PC, then read the target at `I ++ bus` (60_exceptions.md R358). -/
def State.acceptMode2 (s : State) : State :=
  let t := s.advanceR 1
  let pushed := t.push t.pc
  let vector := wordOf s.icBus s.iReg
  (pushed.afterReadWord vector).setPC (pushed.readWord vector)

/-- The return from an interrupt, and from any call: `PC <- Pop()` (60_exceptions.md R361). -/
def State.popPC (s : State) : State := s.dropTop.setPC s.top

/-- `HaltedIdle()`: IncR once and nothing else (60_exceptions.md R344). -/
def State.haltedIdle (s : State) : State := s.advanceR 1

end Sys2Proof.Machine
end

