-- ==== Sys2Proof/Machine/Flags.lean ====
section
/-! DEFINITION. The flags of F (10_state.md R36, R38), the conditions (00_scope.md R20), and every
arithmetic helper with its flags (00_scope.md R14 to R19). -/

namespace Sys2Proof.Machine

/-- The six flags (10_state.md R36). -/
structure Flags where
  s : Bool
  z : Bool
  h : Bool
  pv : Bool
  n : Bool
  c : Bool
deriving DecidableEq, Repr

/-- The flags held in a byte F: bits 7, 6, 4, 2, 1, 0. -/
def flagsOf (f : Byte) : Flags :=
  { s := f.getLsbD 7, z := f.getLsbD 6, h := f.getLsbD 4
    pv := f.getLsbD 2, n := f.getLsbD 1, c := f.getLsbD 0 }

/-- F with its six flags replaced and bits 5 and 3 kept (10_state.md R38). -/
def putFlags (f : Byte) (g : Flags) : Byte :=
  BitVec.ofBool g.s ++ BitVec.ofBool g.z ++ BitVec.ofBool (f.getLsbD 5) ++ BitVec.ofBool g.h
    ++ BitVec.ofBool (f.getLsbD 3) ++ BitVec.ofBool g.pv ++ BitVec.ofBool g.n ++ BitVec.ofBool g.c

/-- The flags of the state. -/
def State.flags (s : State) : Flags := flagsOf s.main.f

/-- Write the six flags, bits 5 and 3 of F unchanged. -/
def State.setFlags (s : State) (g : Flags) : State := s.setF (putFlags s.main.f g)

/-- `parity(b)`: 1 when the number of 1 bits is even (00_scope.md R11). -/
def parity (b : Byte) : Bool :=
  !(b.getLsbD 0 ^^ b.getLsbD 1 ^^ b.getLsbD 2 ^^ b.getLsbD 3
    ^^ b.getLsbD 4 ^^ b.getLsbD 5 ^^ b.getLsbD 6 ^^ b.getLsbD 7)

/-- `cond(c)` (00_scope.md R20). -/
def condHolds (g : Flags) : Cond → Bool
  | .nz => !g.z
  | .z => g.z
  | .nc => !g.c
  | .c => g.c
  | .po => !g.pv
  | .pe => g.pv
  | .p => !g.s
  | .m => g.s

/-! ### 8-bit arithmetic -/

/-- `add8(a, b, cin)` (00_scope.md R14). -/
def add8 (a b : Byte) (cin : Bool) : Byte × Flags :=
  let sum := a.toNat + b.toNat + cin.toNat
  let res := BitVec.ofNat 8 sum
  (res,
    { s := res.getLsbD 7
      z := res == 0
      h := decide (16 ≤ a.toNat % 16 + b.toNat % 16 + cin.toNat)
      pv := a.getLsbD 7 == b.getLsbD 7 && res.getLsbD 7 != a.getLsbD 7
      n := false
      c := decide (256 ≤ sum) })

/-- `sub8(a, b, cin)` (00_scope.md R15). -/
def sub8 (a b : Byte) (cin : Bool) : Byte × Flags :=
  let diff : Int := (a.toNat : Int) - b.toNat - cin.toNat
  let res := BitVec.ofInt 8 diff
  (res,
    { s := res.getLsbD 7
      z := res == 0
      h := decide (a.toNat % 16 < b.toNat % 16 + cin.toNat)
      pv := a.getLsbD 7 != b.getLsbD 7 && res.getLsbD 7 != a.getLsbD 7
      n := true
      c := decide (diff < 0) })

/-- `logic8(res, h)` (00_scope.md R16). -/
def logic8 (res : Byte) (h : Bool) : Flags :=
  { s := res.getLsbD 7, z := res == 0, h := h, pv := parity res, n := false, c := false }

/-- `inc8(v)`; C is the old one (00_scope.md R17). -/
def inc8 (v : Byte) (cOld : Bool) : Byte × Flags :=
  let res := v + 1
  (res,
    { s := res.getLsbD 7, z := res == 0, h := v.toNat % 16 == 15, pv := v == 0x7F
      n := false, c := cOld })

/-- `dec8(v)`; C is the old one (00_scope.md R17). -/
def dec8 (v : Byte) (cOld : Bool) : Byte × Flags :=
  let res := v - 1
  (res,
    { s := res.getLsbD 7, z := res == 0, h := v.toNat % 16 == 0, pv := v == 0x80
      n := true, c := cOld })

/-- DAA on A with the flags before it: the result and the flags (44_gp_arith_cpu_control.md R233). -/
def daa8 (a : Byte) (g : Flags) : Byte × Flags :=
  let low := a.toNat % 16
  let corrLow : Nat := if g.h || decide (9 < low) then 0x06 else 0
  let high := g.c || decide (0x99 < a.toNat)
  let corr := BitVec.ofNat 8 (corrLow + if high then 0x60 else 0)
  let res := if g.n then a - corr else a + corr
  let hNew := if g.n then g.h && decide (low < 6) else decide (9 < low)
  (res,
    { s := res.getLsbD 7, z := res == 0, h := hNew, pv := parity res, n := g.n
      c := g.c || high })

/-! ### Shifts and rotates (00_scope.md R18): the result and the bit shifted out -/

/-- The seven operations of the CB table (30_encoding.md R106). -/
inductive ShiftOp where
  | rlc | rrc | rl | rr | sla | sra | srl
deriving DecidableEq, Repr

/-- One shift by one bit, with the carry before it. -/
def shift8 (op : ShiftOp) (v : Byte) (c : Bool) : Byte × Bool :=
  let up := BitVec.ofNat 8 (v.toNat * 2 % 256)
  let down := BitVec.ofNat 8 (v.toNat / 2)
  let low (b : Bool) : Byte := if b then 0x01 else 0
  let high (b : Bool) : Byte := if b then 0x80 else 0
  match op with
  | .rlc => (up + low (v.getLsbD 7), v.getLsbD 7)
  | .rrc => (down + high (v.getLsbD 0), v.getLsbD 0)
  | .rl => (up + low c, v.getLsbD 7)
  | .rr => (down + high c, v.getLsbD 0)
  | .sla => (up, v.getLsbD 7)
  | .sra => (down + high (v.getLsbD 7), v.getLsbD 0)
  | .srl => (down, v.getLsbD 0)

/-- The flags of a CB-table shift: S, Z, parity of the result, H = N = 0, C the bit shifted out
(46_rotate_shift.md R260 to R287). -/
def shiftFlags (res : Byte) (cout : Bool) : Flags :=
  { s := res.getLsbD 7, z := res == 0, h := false, pv := parity res, n := false, c := cout }

/-- The flags after a byte is read or a digit rotated: S, Z, parity of it, H = N = 0, C kept
(46_rotate_shift.md R288, R289; 49_io.md R321). -/
def byteFlags (v : Byte) (g : Flags) : Flags :=
  { s := v.getLsbD 7, z := v == 0, h := false, pv := parity v, n := false, c := g.c }

/-! ### 16-bit arithmetic (00_scope.md R19) -/

/-- `add16(a, b)`: S, Z and P/V are the old ones. -/
def add16 (a b : Word) (g : Flags) : Word × Flags :=
  let sum := a.toNat + b.toNat
  (BitVec.ofNat 16 sum,
    { g with
      h := decide (4096 ≤ a.toNat % 4096 + b.toNat % 4096)
      n := false
      c := decide (65536 ≤ sum) })

/-- `adc16(a, b, cin)`. -/
def adc16 (a b : Word) (cin : Bool) : Word × Flags :=
  let sum := a.toNat + b.toNat + cin.toNat
  let res := BitVec.ofNat 16 sum
  (res,
    { s := res.getLsbD 15
      z := res == 0
      h := decide (4096 ≤ a.toNat % 4096 + b.toNat % 4096 + cin.toNat)
      pv := a.getLsbD 15 == b.getLsbD 15 && res.getLsbD 15 != a.getLsbD 15
      n := false
      c := decide (65536 ≤ sum) })

/-- `sbc16(a, b, cin)`. -/
def sbc16 (a b : Word) (cin : Bool) : Word × Flags :=
  let diff : Int := (a.toNat : Int) - b.toNat - cin.toNat
  let res := BitVec.ofInt 16 diff
  (res,
    { s := res.getLsbD 15
      z := res == 0
      h := decide (a.toNat % 4096 < b.toNat % 4096 + cin.toNat)
      pv := a.getLsbD 15 != b.getLsbD 15 && res.getLsbD 15 != a.getLsbD 15
      n := true
      c := decide (diff < 0) })

end Sys2Proof.Machine
end

