-- ==== Sys2Proof/Machine/Operands.lean ====
section
/-! DEFINITION. The 8-bit operand forms (43_arith8.md, 46_rotate_shift.md, 47_bit.md) and the shared
operations the instructions of a family differ in only by operand. -/

namespace Sys2Proof.Machine

/-- A place that holds a byte: `r`, `(HL)`, `(IX+d)`, `(IY+d)` (30_encoding.md R121, operand `m`). -/
inductive Place where
  | reg (r : R8)
  | atHL
  | atIdx (x : Idx) (d : Byte)
deriving DecidableEq, Repr

/-- The memory address of a place, none for a register. -/
def Place.address (p : Place) (s : State) : Option Word :=
  match p with
  | .reg _ => none
  | .atHL => some s.hl
  | .atIdx x d => some (s.ea x d)

/-- The byte a place holds. -/
def State.load (s : State) (p : Place) : Byte :=
  match p with
  | .reg r => s.getR8 r
  | .atHL => s.readByte s.hl
  | .atIdx x d => s.readByte (s.ea x d)

/-- What reading a place does to the state: one memory read for a place in memory. -/
def State.afterLoad (s : State) (p : Place) : State :=
  match p with
  | .reg _ => s
  | .atHL => s.afterRead s.hl
  | .atIdx x d => s.afterRead (s.ea x d)

/-- Write a place. -/
def State.store (s : State) (p : Place) (v : Byte) : State :=
  match p with
  | .reg r => s.setR8 r v
  | .atHL => s.writeByte s.hl v
  | .atIdx x d => s.writeByte (s.ea x d) v

/-! ### 8-bit arithmetic on A (43_arith8.md R185 to R224) -/

/-- The eight operations (30_encoding.md R106). -/
inductive AluOp where
  | add | adc | sub | sbc | and | xor | or | cp
deriving DecidableEq, Repr

/-- The byte that goes to A and the flags, from A, the operand and the carry; CP keeps A. -/
def alu8 (op : AluOp) (a v : Byte) (c : Bool) : Byte × Flags :=
  match op with
  | .add => add8 a v false
  | .adc => add8 a v c
  | .sub => sub8 a v false
  | .sbc => sub8 a v c
  | .and => (a &&& v, logic8 (a &&& v) true)
  | .xor => (a ^^^ v, logic8 (a ^^^ v) false)
  | .or => (a ||| v, logic8 (a ||| v) false)
  | .cp => (a, (sub8 a v false).2)

/-- An operation on A with operand byte `v`. -/
def State.aluA (s : State) (op : AluOp) (v : Byte) : State :=
  let r := alu8 op s.main.a v s.flags.c
  (s.setR8 .a r.1).setFlags r.2

/-- An operation on A with the byte of a place (43_arith8.md). -/
def State.aluPlace (s : State) (op : AluOp) (p : Place) : State :=
  (s.afterLoad p).aluA op (s.load p)

/-! ### Read, change and write a place -/

/-- INC of a place (43_arith8.md R225 to R228). -/
def State.incPlace (s : State) (p : Place) : State :=
  let r := inc8 (s.load p) s.flags.c
  ((s.afterLoad p).store p r.1).setFlags r.2

/-- DEC of a place (43_arith8.md R229 to R232). -/
def State.decPlace (s : State) (p : Place) : State :=
  let r := dec8 (s.load p) s.flags.c
  ((s.afterLoad p).store p r.1).setFlags r.2

/-- A CB-table shift of a place (46_rotate_shift.md R260 to R287). -/
def State.shiftPlace (s : State) (op : ShiftOp) (p : Place) : State :=
  let r := shift8 op (s.load p) s.flags.c
  ((s.afterLoad p).store p r.1).setFlags (shiftFlags r.1 r.2)

/-- An accumulator rotate: S, Z and P/V kept (46_rotate_shift.md R256 to R259). -/
def State.rotateA (s : State) (op : ShiftOp) : State :=
  let r := shift8 op s.main.a s.flags.c
  (s.setR8 .a r.1).setFlags { s.flags with h := false, n := false, c := r.2 }

/-- `2^b` as a byte (47_bit.md). -/
def bitMask (b : BitVec 3) : Byte := BitVec.ofNat 8 (2 ^ b.toNat)

/-- BIT: Z is the complement of the bit, H = 1, N = 0, the rest kept (47_bit.md R290 to R293). -/
def State.testBit (s : State) (b : BitVec 3) (p : Place) : State :=
  (s.afterLoad p).setFlags { s.flags with z := !(s.load p).getLsbD b.toNat, h := true, n := false }

/-- SET (47_bit.md R294 to R297). -/
def State.setBit (s : State) (b : BitVec 3) (p : Place) : State :=
  (s.afterLoad p).store p (s.load p ||| bitMask b)

/-- RES (47_bit.md R298 to R301). -/
def State.resBit (s : State) (b : BitVec 3) (p : Place) : State :=
  (s.afterLoad p).store p (s.load p &&& (255 - bitMask b))

/-! ### Blocks: one repetition (42_exchange_block.md, 49_io.md) -/

/-- The direction of a block instruction. -/
inductive Direction where
  | up | down
deriving DecidableEq, Repr

/-- A pointer after one repetition. -/
def Direction.step (dir : Direction) (w : Word) : Word :=
  match dir with
  | .up => w + 1
  | .down => w - 1

/-- `PC <- PC - 2` when the repetition repeats (42_exchange_block.md R178). -/
def State.repeatIf (s : State) (again : Bool) : State :=
  if again then s.setPC (s.pc - 2) else s

/-- One repetition of LDI or LDD (42_exchange_block.md R177, R179). -/
def State.blockCopy (s : State) (dir : Direction) : State :=
  let bc := s.bc - 1
  let t := (s.afterRead s.hl).writeByte s.de (s.readByte s.hl)
  let moved := ((t.setDE (dir.step s.de)).setHL (dir.step s.hl)).setBC bc
  moved.setFlags { s.flags with h := false, n := false, pv := bc != 0 }

/-- LDIR and LDDR repeat while BC after the decrement is not 0 (R178, R180). -/
def State.copyAgain (s : State) : Bool := s.bc - 1 != 0

/-- One repetition of CPI or CPD (42_exchange_block.md R181, R183). -/
def State.blockCompare (s : State) (dir : Direction) : State :=
  let bc := s.bc - 1
  let g := (sub8 s.main.a (s.readByte s.hl) false).2
  let moved := ((s.afterRead s.hl).setHL (dir.step s.hl)).setBC bc
  moved.setFlags { g with pv := bc != 0, c := s.flags.c }

/-- CPIR and CPDR repeat while BC after the decrement is not 0 and there is no match with the byte the one
read at HL returns (R182, R184). -/
def State.compareAgain (s : State) : Bool :=
  s.bc - 1 != 0 && s.main.a != s.readByte s.hl

/-- The flags of the block I/O instructions: Z from B after the decrement, N = 1, the rest kept
(49_io.md R322). -/
def blockIoFlags (bNew : Byte) (g : Flags) : Flags :=
  { g with z := bNew == 0, n := true }

/-- One repetition of INI or IND: the port is read before memory is written (49_io.md R322, R324). -/
def State.blockIn (s : State) (dir : Direction) : State :=
  let bNew := s.main.b - 1
  let t := (s.afterIoRead s.main.c).writeByte s.hl (s.ioValue s.main.c)
  let moved := (t.setHL (dir.step s.hl)).setR8 .b bNew
  moved.setFlags (blockIoFlags bNew s.flags)

/-- One repetition of OUTI or OUTD: B is decremented before the write (49_io.md R328, R330). -/
def State.blockOut (s : State) (dir : Direction) : State :=
  let bNew := s.main.b - 1
  let t := ((s.afterRead s.hl).setR8 .b bNew).ioWrite s.main.c (s.readByte s.hl)
  (t.setHL (dir.step s.hl)).setFlags (blockIoFlags bNew s.flags)

/-- INIR, INDR, OTIR and OTDR repeat while B after the decrement is not 0 (49_io.md R323). -/
def State.ioAgain (s : State) : Bool := s.main.b - 1 != 0

end Sys2Proof.Machine
end

