-- ==== Sys2Proof/Machine/Arith16.lean ====
section
/-! DEFINITION. Meanings: 16-bit arithmetic (45_arith16.md). -/

namespace Sys2Proof.Machine

/-- ADD of a pair to an index register (R248, R249). -/
def State.addIdx (s : State) (x : Idx) (p : PairPp) : State :=
  let r := add16 (s.getIdx x) (s.getPp x p) s.flags
  (s.setIdx x r.1).setFlags r.2

/-- `ADD HL,ss` (R245). -/
def execAddHlSs (p : PairDd) (s : State) : Host.Outcome State Fault Refusal :=
  .next ((s.setHL (add16 s.hl (s.getDd p) s.flags).1).setFlags (add16 s.hl (s.getDd p) s.flags).2)

/-- `ADC HL,ss` (R246). -/
def execAdcHlSs (p : PairDd) (s : State) : Host.Outcome State Fault Refusal :=
  .next
    ((s.setHL (adc16 s.hl (s.getDd p) s.flags.c).1).setFlags (adc16 s.hl (s.getDd p) s.flags.c).2)

/-- `SBC HL,ss` (R247). -/
def execSbcHlSs (p : PairDd) (s : State) : Host.Outcome State Fault Refusal :=
  .next
    ((s.setHL (sbc16 s.hl (s.getDd p) s.flags.c).1).setFlags (sbc16 s.hl (s.getDd p) s.flags.c).2)

/-- `ADD IX,pp` (R248). -/
def execAddIxPp (p : PairPp) (s : State) : Host.Outcome State Fault Refusal :=
  .next (s.addIdx .ix p)

/-- `ADD IY,rr` (R249). -/
def execAddIyRr (p : PairPp) (s : State) : Host.Outcome State Fault Refusal :=
  .next (s.addIdx .iy p)

/-- `INC ss` (R250). -/
def execIncSs (p : PairDd) (s : State) : Host.Outcome State Fault Refusal :=
  .next (s.setDd p (s.getDd p + 1))

/-- `INC IX` (R251). -/
def execIncIx (s : State) : Host.Outcome State Fault Refusal :=
  .next (s.setIdx .ix (s.getIdx .ix + 1))

/-- `INC IY` (R252). -/
def execIncIy (s : State) : Host.Outcome State Fault Refusal :=
  .next (s.setIdx .iy (s.getIdx .iy + 1))

/-- `DEC ss` (R253). -/
def execDecSs (p : PairDd) (s : State) : Host.Outcome State Fault Refusal :=
  .next (s.setDd p (s.getDd p - 1))

/-- `DEC IX` (R254). -/
def execDecIx (s : State) : Host.Outcome State Fault Refusal :=
  .next (s.setIdx .ix (s.getIdx .ix - 1))

/-- `DEC IY` (R255). -/
def execDecIy (s : State) : Host.Outcome State Fault Refusal :=
  .next (s.setIdx .iy (s.getIdx .iy - 1))

end Sys2Proof.Machine
end

