-- ==== Sys2Proof/Machine/Arith8.lean ====
section
/-! DEFINITION. Meanings: 8-bit arithmetic and logic (43_arith8.md). -/

namespace Sys2Proof.Machine

/-- `ADD A,r` (R185). -/
def execAddR (src : R8) (s : State) : Host.Outcome State Fault Refusal :=
  .next (s.aluA .add (s.getR8 src))

/-- `ADD A,n` (R186). -/
def execAddN (n : Byte) (s : State) : Host.Outcome State Fault Refusal :=
  .next (s.aluA .add n)

/-- `ADD A,(HL)` (R187). -/
def execAddHl (s : State) : Host.Outcome State Fault Refusal :=
  .next (s.aluPlace .add .atHL)

/-- `ADD A,(IX+d)` (R188). -/
def execAddIxD (d : Byte) (s : State) : Host.Outcome State Fault Refusal :=
  .next (s.aluPlace .add (.atIdx .ix d))

/-- `ADD A,(IY+d)` (R189). -/
def execAddIyD (d : Byte) (s : State) : Host.Outcome State Fault Refusal :=
  .next (s.aluPlace .add (.atIdx .iy d))

/-- `ADC A,r` (R190). -/
def execAdcR (src : R8) (s : State) : Host.Outcome State Fault Refusal :=
  .next (s.aluA .adc (s.getR8 src))

/-- `ADC A,n` (R191). -/
def execAdcN (n : Byte) (s : State) : Host.Outcome State Fault Refusal :=
  .next (s.aluA .adc n)

/-- `ADC A,(HL)` (R192). -/
def execAdcHl (s : State) : Host.Outcome State Fault Refusal :=
  .next (s.aluPlace .adc .atHL)

/-- `ADC A,(IX+d)` (R193). -/
def execAdcIxD (d : Byte) (s : State) : Host.Outcome State Fault Refusal :=
  .next (s.aluPlace .adc (.atIdx .ix d))

/-- `ADC A,(IY+d)` (R194). -/
def execAdcIyD (d : Byte) (s : State) : Host.Outcome State Fault Refusal :=
  .next (s.aluPlace .adc (.atIdx .iy d))

/-- `SUB r` (R195). -/
def execSubR (src : R8) (s : State) : Host.Outcome State Fault Refusal :=
  .next (s.aluA .sub (s.getR8 src))

/-- `SUB n` (R196). -/
def execSubN (n : Byte) (s : State) : Host.Outcome State Fault Refusal :=
  .next (s.aluA .sub n)

/-- `SUB (HL)` (R197). -/
def execSubHl (s : State) : Host.Outcome State Fault Refusal :=
  .next (s.aluPlace .sub .atHL)

/-- `SUB (IX+d)` (R198). -/
def execSubIxD (d : Byte) (s : State) : Host.Outcome State Fault Refusal :=
  .next (s.aluPlace .sub (.atIdx .ix d))

/-- `SUB (IY+d)` (R199). -/
def execSubIyD (d : Byte) (s : State) : Host.Outcome State Fault Refusal :=
  .next (s.aluPlace .sub (.atIdx .iy d))

/-- `SBC A,r` (R200). -/
def execSbcR (src : R8) (s : State) : Host.Outcome State Fault Refusal :=
  .next (s.aluA .sbc (s.getR8 src))

/-- `SBC A,n` (R201). -/
def execSbcN (n : Byte) (s : State) : Host.Outcome State Fault Refusal :=
  .next (s.aluA .sbc n)

/-- `SBC A,(HL)` (R202). -/
def execSbcHl (s : State) : Host.Outcome State Fault Refusal :=
  .next (s.aluPlace .sbc .atHL)

/-- `SBC A,(IX+d)` (R203). -/
def execSbcIxD (d : Byte) (s : State) : Host.Outcome State Fault Refusal :=
  .next (s.aluPlace .sbc (.atIdx .ix d))

/-- `SBC A,(IY+d)` (R204). -/
def execSbcIyD (d : Byte) (s : State) : Host.Outcome State Fault Refusal :=
  .next (s.aluPlace .sbc (.atIdx .iy d))

/-- `AND r` (R205). -/
def execAndR (src : R8) (s : State) : Host.Outcome State Fault Refusal :=
  .next (s.aluA .and (s.getR8 src))

/-- `AND n` (R206). -/
def execAndN (n : Byte) (s : State) : Host.Outcome State Fault Refusal :=
  .next (s.aluA .and n)

/-- `AND (HL)` (R207). -/
def execAndHl (s : State) : Host.Outcome State Fault Refusal :=
  .next (s.aluPlace .and .atHL)

/-- `AND (IX+d)` (R208). -/
def execAndIxD (d : Byte) (s : State) : Host.Outcome State Fault Refusal :=
  .next (s.aluPlace .and (.atIdx .ix d))

/-- `AND (IY+d)` (R209). -/
def execAndIyD (d : Byte) (s : State) : Host.Outcome State Fault Refusal :=
  .next (s.aluPlace .and (.atIdx .iy d))

/-- `OR r` (R210). -/
def execOrR (src : R8) (s : State) : Host.Outcome State Fault Refusal :=
  .next (s.aluA .or (s.getR8 src))

/-- `OR n` (R211). -/
def execOrN (n : Byte) (s : State) : Host.Outcome State Fault Refusal :=
  .next (s.aluA .or n)

/-- `OR (HL)` (R212). -/
def execOrHl (s : State) : Host.Outcome State Fault Refusal :=
  .next (s.aluPlace .or .atHL)

/-- `OR (IX+d)` (R213). -/
def execOrIxD (d : Byte) (s : State) : Host.Outcome State Fault Refusal :=
  .next (s.aluPlace .or (.atIdx .ix d))

/-- `OR (IY+d)` (R214). -/
def execOrIyD (d : Byte) (s : State) : Host.Outcome State Fault Refusal :=
  .next (s.aluPlace .or (.atIdx .iy d))

/-- `XOR r` (R215). -/
def execXorR (src : R8) (s : State) : Host.Outcome State Fault Refusal :=
  .next (s.aluA .xor (s.getR8 src))

/-- `XOR n` (R216). -/
def execXorN (n : Byte) (s : State) : Host.Outcome State Fault Refusal :=
  .next (s.aluA .xor n)

/-- `XOR (HL)` (R217). -/
def execXorHl (s : State) : Host.Outcome State Fault Refusal :=
  .next (s.aluPlace .xor .atHL)

/-- `XOR (IX+d)` (R218). -/
def execXorIxD (d : Byte) (s : State) : Host.Outcome State Fault Refusal :=
  .next (s.aluPlace .xor (.atIdx .ix d))

/-- `XOR (IY+d)` (R219). -/
def execXorIyD (d : Byte) (s : State) : Host.Outcome State Fault Refusal :=
  .next (s.aluPlace .xor (.atIdx .iy d))

/-- `CP r` (R220). -/
def execCpR (src : R8) (s : State) : Host.Outcome State Fault Refusal :=
  .next (s.aluA .cp (s.getR8 src))

/-- `CP n` (R221). -/
def execCpN (n : Byte) (s : State) : Host.Outcome State Fault Refusal :=
  .next (s.aluA .cp n)

/-- `CP (HL)` (R222). -/
def execCpHl (s : State) : Host.Outcome State Fault Refusal :=
  .next (s.aluPlace .cp .atHL)

/-- `CP (IX+d)` (R223). -/
def execCpIxD (d : Byte) (s : State) : Host.Outcome State Fault Refusal :=
  .next (s.aluPlace .cp (.atIdx .ix d))

/-- `CP (IY+d)` (R224). -/
def execCpIyD (d : Byte) (s : State) : Host.Outcome State Fault Refusal :=
  .next (s.aluPlace .cp (.atIdx .iy d))

/-- `INC r` (R225). -/
def execIncR (r : R8) (s : State) : Host.Outcome State Fault Refusal :=
  .next (s.incPlace (.reg r))

/-- `INC (HL)` (R226). -/
def execIncHl (s : State) : Host.Outcome State Fault Refusal :=
  .next (s.incPlace .atHL)

/-- `INC (IX+d)` (R227). -/
def execIncIxD (d : Byte) (s : State) : Host.Outcome State Fault Refusal :=
  .next (s.incPlace (.atIdx .ix d))

/-- `INC (IY+d)` (R228). -/
def execIncIyD (d : Byte) (s : State) : Host.Outcome State Fault Refusal :=
  .next (s.incPlace (.atIdx .iy d))

/-- `DEC r` (R229). -/
def execDecR (r : R8) (s : State) : Host.Outcome State Fault Refusal :=
  .next (s.decPlace (.reg r))

/-- `DEC (HL)` (R230). -/
def execDecHl (s : State) : Host.Outcome State Fault Refusal :=
  .next (s.decPlace .atHL)

/-- `DEC (IX+d)` (R231). -/
def execDecIxD (d : Byte) (s : State) : Host.Outcome State Fault Refusal :=
  .next (s.decPlace (.atIdx .ix d))

/-- `DEC (IY+d)` (R232). -/
def execDecIyD (d : Byte) (s : State) : Host.Outcome State Fault Refusal :=
  .next (s.decPlace (.atIdx .iy d))

end Sys2Proof.Machine
end

