-- ==== Sys2Proof/Machine/Bit.lean ====
section
/-! DEFINITION. Meanings: BIT, SET and RES (47_bit.md). -/

namespace Sys2Proof.Machine

/-- `BIT b,r` (R290). -/
def execBitR (b : BitVec 3) (src : R8) (s : State) : Host.Outcome State Fault Refusal :=
  .next (s.testBit b (.reg src))

/-- `BIT b,(HL)` (R291). -/
def execBitHl (b : BitVec 3) (s : State) : Host.Outcome State Fault Refusal :=
  .next (s.testBit b .atHL)

/-- `BIT b,(IX+d)` (R292). -/
def execBitIxD (b : BitVec 3) (d : Byte) (s : State) : Host.Outcome State Fault Refusal :=
  .next (s.testBit b (.atIdx .ix d))

/-- `BIT b,(IY+d)` (R293). -/
def execBitIyD (b : BitVec 3) (d : Byte) (s : State) : Host.Outcome State Fault Refusal :=
  .next (s.testBit b (.atIdx .iy d))

/-- `SET b,r` (R294). -/
def execSetR (b : BitVec 3) (src : R8) (s : State) : Host.Outcome State Fault Refusal :=
  .next (s.setBit b (.reg src))

/-- `SET b,(HL)` (R295). -/
def execSetHl (b : BitVec 3) (s : State) : Host.Outcome State Fault Refusal :=
  .next (s.setBit b .atHL)

/-- `SET b,(IX+d)` (R296). -/
def execSetIxD (b : BitVec 3) (d : Byte) (s : State) : Host.Outcome State Fault Refusal :=
  .next (s.setBit b (.atIdx .ix d))

/-- `SET b,(IY+d)` (R297). -/
def execSetIyD (b : BitVec 3) (d : Byte) (s : State) : Host.Outcome State Fault Refusal :=
  .next (s.setBit b (.atIdx .iy d))

/-- `RES b,r` (R298). -/
def execResR (b : BitVec 3) (src : R8) (s : State) : Host.Outcome State Fault Refusal :=
  .next (s.resBit b (.reg src))

/-- `RES b,(HL)` (R299). -/
def execResHl (b : BitVec 3) (s : State) : Host.Outcome State Fault Refusal :=
  .next (s.resBit b .atHL)

/-- `RES b,(IX+d)` (R300). -/
def execResIxD (b : BitVec 3) (d : Byte) (s : State) : Host.Outcome State Fault Refusal :=
  .next (s.resBit b (.atIdx .ix d))

/-- `RES b,(IY+d)` (R301). -/
def execResIyD (b : BitVec 3) (d : Byte) (s : State) : Host.Outcome State Fault Refusal :=
  .next (s.resBit b (.atIdx .iy d))

end Sys2Proof.Machine
end

