-- ==== Sys2Proof/Machine/Exchange.lean ====
section
/-! DEFINITION. Meanings: exchanges, block transfer and block search (42_exchange_block.md). -/

namespace Sys2Proof.Machine

/-- Two bytes on top of the stack read and then replaced, the high byte first (R174). -/
def State.replaceTop (s : State) (w : Word) : State :=
  ((s.afterReadWord s.sp).writeByte (s.sp + 1) (hiByte w)).writeByte s.sp (loByte w)

/-- AF and AF' exchanged (R172). -/
def State.exchangeAF (s : State) : State :=
  { s with
    main := { s.main with a := s.shadow.a, f := s.shadow.f }
    shadow := { s.shadow with a := s.main.a, f := s.main.f } }

/-- BC, DE, HL and BC', DE', HL' exchanged (R173). -/
def State.exchangeBank (s : State) : State :=
  { s with
    main := { s.shadow with a := s.main.a, f := s.main.f }
    shadow := { s.main with a := s.shadow.a, f := s.shadow.f } }

/-- `EX DE,HL` (R171). -/
def execExDeHl (s : State) : Host.Outcome State Fault Refusal :=
  .next ((s.setDE s.hl).setHL s.de)

/-- `EX AF,AF'` (R172). -/
def execExAfAf (s : State) : Host.Outcome State Fault Refusal :=
  .next (s.exchangeAF)

/-- `EXX` (R173). -/
def execExx (s : State) : Host.Outcome State Fault Refusal :=
  .next (s.exchangeBank)

/-- `EX (SP),HL` (R174). -/
def execExSpHl (s : State) : Host.Outcome State Fault Refusal :=
  .next ((s.replaceTop s.hl).setHL s.top)

/-- `EX (SP),IX` (R175). -/
def execExSpIx (s : State) : Host.Outcome State Fault Refusal :=
  .next ((s.replaceTop (s.getIdx .ix)).setIdx .ix s.top)

/-- `EX (SP),IY` (R176). -/
def execExSpIy (s : State) : Host.Outcome State Fault Refusal :=
  .next ((s.replaceTop (s.getIdx .iy)).setIdx .iy s.top)

/-- `LDI` (R177). -/
def execLdi (s : State) : Host.Outcome State Fault Refusal :=
  .next (s.blockCopy .up)

/-- `LDIR` (R178). -/
def execLdir (s : State) : Host.Outcome State Fault Refusal :=
  .next ((s.blockCopy .up).repeatIf s.copyAgain)

/-- `LDD` (R179). -/
def execLdd (s : State) : Host.Outcome State Fault Refusal :=
  .next (s.blockCopy .down)

/-- `LDDR` (R180). -/
def execLddr (s : State) : Host.Outcome State Fault Refusal :=
  .next ((s.blockCopy .down).repeatIf s.copyAgain)

/-- `CPI` (R181). -/
def execCpi (s : State) : Host.Outcome State Fault Refusal :=
  .next (s.blockCompare .up)

/-- `CPIR` (R182). -/
def execCpir (s : State) : Host.Outcome State Fault Refusal :=
  .next ((s.blockCompare .up).repeatIf s.compareAgain)

/-- `CPD` (R183). -/
def execCpd (s : State) : Host.Outcome State Fault Refusal :=
  .next (s.blockCompare .down)

/-- `CPDR` (R184). -/
def execCpdr (s : State) : Host.Outcome State Fault Refusal :=
  .next ((s.blockCompare .down).repeatIf s.compareAgain)

end Sys2Proof.Machine
end

