-- ==== Sys2Proof/Machine/Fallback.lean ====
section
/-! DEFINITION. Meanings: the fallbacks of undefined encodings (30_encoding.md). -/

namespace Sys2Proof.Machine

/-- `NOP* (ED undefined)` (R116). -/
def execNopEd (_op : Byte) (s : State) : Host.Outcome State Fault Refusal :=
  .next s

/-- `NOP* (CB 30-37)` (R117). -/
def execNopCb (_src : BitVec 3) (s : State) : Host.Outcome State Fault Refusal :=
  .next s

/-- `NOP* (lone DD prefix)` (R118). -/
def execNopDd (s : State) : Host.Outcome State Fault Refusal :=
  .next s

/-- `NOP* (lone FD prefix)` (R118). -/
def execNopFd (s : State) : Host.Outcome State Fault Refusal :=
  .next s

/-- `NOP* (DD CB undefined)` (R119). -/
def execNopDdCb (_d : Byte) (_op : Byte) (s : State) : Host.Outcome State Fault Refusal :=
  .next s

/-- `NOP* (FD CB undefined)` (R119). -/
def execNopFdCb (_d : Byte) (_op : Byte) (s : State) : Host.Outcome State Fault Refusal :=
  .next s

end Sys2Proof.Machine
end

