-- ==== Sys2Proof/Machine/GpControl.lean ====
section
/-! DEFINITION. Meanings: accumulator adjustments and CPU control (44_gp_arith_cpu_control.md). -/

namespace Sys2Proof.Machine

/-- `DAA` (R233). -/
def execDaa (s : State) : Host.Outcome State Fault Refusal :=
  .next ((s.setR8 .a (daa8 s.main.a s.flags).1).setFlags (daa8 s.main.a s.flags).2)

/-- `CPL` (R234). -/
def execCpl (s : State) : Host.Outcome State Fault Refusal :=
  .next ((s.setR8 .a (255 - s.main.a)).setFlags { s.flags with h := true, n := true })

/-- `NEG` (R235). -/
def execNeg (s : State) : Host.Outcome State Fault Refusal :=
  .next ((s.setR8 .a (sub8 0 s.main.a false).1).setFlags (sub8 0 s.main.a false).2)

/-- `CCF` (R236). -/
def execCcf (s : State) : Host.Outcome State Fault Refusal :=
  .next (s.setFlags { s.flags with h := s.flags.c, n := false, c := !s.flags.c })

/-- `SCF` (R237). -/
def execScf (s : State) : Host.Outcome State Fault Refusal :=
  .next (s.setFlags { s.flags with h := false, n := false, c := true })

/-- `NOP` (R238). -/
def execNop (s : State) : Host.Outcome State Fault Refusal :=
  .next s

/-- `HALT` (R239). -/
def execHalt (s : State) : Host.Outcome State Fault Refusal :=
  .next ({ s with halted := true })

/-- `DI` (R240). -/
def execDi (s : State) : Host.Outcome State Fault Refusal :=
  .next ({ s with iff1 := false, iff2 := false })

/-- `EI` (R241). -/
def execEi (s : State) : Host.Outcome State Fault Refusal :=
  .next ({ s with iff1 := true, iff2 := true, eiDelay := true })

/-- `IM 0` (R242). -/
def execIm0 (s : State) : Host.Outcome State Fault Refusal :=
  .next ({ s with im := .im0 })

/-- `IM 1` (R243). -/
def execIm1 (s : State) : Host.Outcome State Fault Refusal :=
  .next ({ s with im := .im1 })

/-- `IM 2` (R244). -/
def execIm2 (s : State) : Host.Outcome State Fault Refusal :=
  .next ({ s with im := .im2 })

end Sys2Proof.Machine
end

