-- ==== Sys2Proof/Machine/InOut.lean ====
section
/-! DEFINITION. Meanings: input and output (49_io.md). -/

namespace Sys2Proof.Machine

/-- `IN A,(n)` (R320). -/
def execInAN (n : Byte) (s : State) : Host.Outcome State Fault Refusal :=
  .next ((s.afterIoRead n).setR8 .a (s.ioValue n))

/-- `IN r,(C)` (R321). -/
def execInRC (r : R8) (s : State) : Host.Outcome State Fault Refusal :=
  .next
    (((s.afterIoRead s.main.c).setR8 r (s.ioValue s.main.c)).setFlags (byteFlags (s.ioValue s.main.c) s.flags))

/-- `INI` (R322). -/
def execIni (s : State) : Host.Outcome State Fault Refusal :=
  .next (s.blockIn .up)

/-- `INIR` (R323). -/
def execInir (s : State) : Host.Outcome State Fault Refusal :=
  .next ((s.blockIn .up).repeatIf s.ioAgain)

/-- `IND` (R324). -/
def execInd (s : State) : Host.Outcome State Fault Refusal :=
  .next (s.blockIn .down)

/-- `INDR` (R325). -/
def execIndr (s : State) : Host.Outcome State Fault Refusal :=
  .next ((s.blockIn .down).repeatIf s.ioAgain)

/-- `OUT (n),A` (R326). -/
def execOutNA (n : Byte) (s : State) : Host.Outcome State Fault Refusal :=
  .next (s.ioWrite n s.main.a)

/-- `OUT (C),r` (R327). -/
def execOutCR (src : R8) (s : State) : Host.Outcome State Fault Refusal :=
  .next (s.ioWrite s.main.c (s.getR8 src))

/-- `OUTI` (R328). -/
def execOuti (s : State) : Host.Outcome State Fault Refusal :=
  .next (s.blockOut .up)

/-- `OTIR` (R329). -/
def execOtir (s : State) : Host.Outcome State Fault Refusal :=
  .next ((s.blockOut .up).repeatIf s.ioAgain)

/-- `OUTD` (R330). -/
def execOutd (s : State) : Host.Outcome State Fault Refusal :=
  .next (s.blockOut .down)

/-- `OTDR` (R331). -/
def execOtdr (s : State) : Host.Outcome State Fault Refusal :=
  .next ((s.blockOut .down).repeatIf s.ioAgain)

end Sys2Proof.Machine
end

