-- ==== Sys2Proof/Machine/Jump.lean ====
section
/-! DEFINITION. Meanings: jumps, calls and returns (48_jump_call_return.md). -/

namespace Sys2Proof.Machine

/-- Push the return address and jump (R313). -/
def State.call (s : State) (target : Word) : State := (s.push s.pc).setPC target

/-- `JP nn` (R302). -/
def execJpNn (nn : Word) (s : State) : Host.Outcome State Fault Refusal :=
  .next (s.setPC nn)

/-- `JP cc,nn` (R303). -/
def execJpCcNn (cc : Cond) (nn : Word) (s : State) : Host.Outcome State Fault Refusal :=
  .next (if condHolds s.flags cc then s.setPC nn else s)

/-- `JR e` (R304). -/
def execJr (e : Byte) (s : State) : Host.Outcome State Fault Refusal :=
  .next (s.setPC (s.relTarget e))

/-- `JR C,e` (R305). -/
def execJrC (e : Byte) (s : State) : Host.Outcome State Fault Refusal :=
  .next (if s.flags.c then s.setPC (s.relTarget e) else s)

/-- `JR NC,e` (R306). -/
def execJrNc (e : Byte) (s : State) : Host.Outcome State Fault Refusal :=
  .next (if !s.flags.c then s.setPC (s.relTarget e) else s)

/-- `JR Z,e` (R307). -/
def execJrZ (e : Byte) (s : State) : Host.Outcome State Fault Refusal :=
  .next (if s.flags.z then s.setPC (s.relTarget e) else s)

/-- `JR NZ,e` (R308). -/
def execJrNz (e : Byte) (s : State) : Host.Outcome State Fault Refusal :=
  .next (if !s.flags.z then s.setPC (s.relTarget e) else s)

/-- `JP (HL)` (R309). -/
def execJpHl (s : State) : Host.Outcome State Fault Refusal :=
  .next (s.setPC s.hl)

/-- `JP (IX)` (R310). -/
def execJpIx (s : State) : Host.Outcome State Fault Refusal :=
  .next (s.setPC (s.getIdx .ix))

/-- `JP (IY)` (R311). -/
def execJpIy (s : State) : Host.Outcome State Fault Refusal :=
  .next (s.setPC (s.getIdx .iy))

/-- `DJNZ e` (R312). -/
def execDjnz (e : Byte) (s : State) : Host.Outcome State Fault Refusal :=
  .next (
    let t := s.setR8 .b (s.main.b - 1)
    if s.main.b - 1 != 0 then t.setPC (t.relTarget e) else t)

/-- `CALL nn` (R313). -/
def execCallNn (nn : Word) (s : State) : Host.Outcome State Fault Refusal :=
  .next (s.call nn)

/-- `CALL cc,nn` (R314). -/
def execCallCcNn (cc : Cond) (nn : Word) (s : State) : Host.Outcome State Fault Refusal :=
  .next (if condHolds s.flags cc then s.call nn else s)

/-- `RET` (R315). -/
def execRet (s : State) : Host.Outcome State Fault Refusal :=
  .next (s.popPC)

/-- `RET cc` (R316). -/
def execRetCc (cc : Cond) (s : State) : Host.Outcome State Fault Refusal :=
  .next (if condHolds s.flags cc then s.popPC else s)

/-- `RETI` (R317). -/
def execReti (s : State) : Host.Outcome State Fault Refusal :=
  .next (s.popPC)

/-- `RETN` (R318). -/
def execRetn (s : State) : Host.Outcome State Fault Refusal :=
  .next ({ s.popPC with iff1 := s.iff2 })

/-- `RST p` (R319). -/
def execRst (t : BitVec 3) (s : State) : Host.Outcome State Fault Refusal :=
  .next (s.call (BitVec.ofNat 16 (8 * t.toNat)))

end Sys2Proof.Machine
end

