-- ==== Sys2Proof/Machine/Load16.lean ====
section
/-! DEFINITION. Meanings: the 16-bit load group, PUSH and POP (41_load16.md). -/

namespace Sys2Proof.Machine

/-- `LD dd,nn` (R151). -/
def execLdDdNn (p : PairDd) (nn : Word) (s : State) : Host.Outcome State Fault Refusal :=
  .next (s.setDd p nn)

/-- `LD IX,nn` (R152). -/
def execLdIxNn (nn : Word) (s : State) : Host.Outcome State Fault Refusal :=
  .next (s.setIdx .ix nn)

/-- `LD IY,nn` (R153). -/
def execLdIyNn (nn : Word) (s : State) : Host.Outcome State Fault Refusal :=
  .next (s.setIdx .iy nn)

/-- `LD HL,(nn)` (R154). -/
def execLdHlMem (nn : Word) (s : State) : Host.Outcome State Fault Refusal :=
  .next ((s.afterReadWord nn).setHL (s.readWord nn))

/-- `LD dd,(nn)` (R155). -/
def execLdDdMem (p : PairDd) (nn : Word) (s : State) : Host.Outcome State Fault Refusal :=
  .next ((s.afterReadWord nn).setDd p (s.readWord nn))

/-- `LD IX,(nn)` (R156). -/
def execLdIxMem (nn : Word) (s : State) : Host.Outcome State Fault Refusal :=
  .next ((s.afterReadWord nn).setIdx .ix (s.readWord nn))

/-- `LD IY,(nn)` (R157). -/
def execLdIyMem (nn : Word) (s : State) : Host.Outcome State Fault Refusal :=
  .next ((s.afterReadWord nn).setIdx .iy (s.readWord nn))

/-- `LD (nn),HL` (R158). -/
def execLdMemHl (nn : Word) (s : State) : Host.Outcome State Fault Refusal :=
  .next (s.writeWord nn s.hl)

/-- `LD (nn),dd` (R159). -/
def execLdMemDd (p : PairDd) (nn : Word) (s : State) : Host.Outcome State Fault Refusal :=
  .next (s.writeWord nn (s.getDd p))

/-- `LD (nn),IX` (R160). -/
def execLdMemIx (nn : Word) (s : State) : Host.Outcome State Fault Refusal :=
  .next (s.writeWord nn (s.getIdx .ix))

/-- `LD (nn),IY` (R161). -/
def execLdMemIy (nn : Word) (s : State) : Host.Outcome State Fault Refusal :=
  .next (s.writeWord nn (s.getIdx .iy))

/-- `LD SP,HL` (R162). -/
def execLdSpHl (s : State) : Host.Outcome State Fault Refusal :=
  .next (s.setSP s.hl)

/-- `LD SP,IX` (R163). -/
def execLdSpIx (s : State) : Host.Outcome State Fault Refusal :=
  .next (s.setSP (s.getIdx .ix))

/-- `LD SP,IY` (R164). -/
def execLdSpIy (s : State) : Host.Outcome State Fault Refusal :=
  .next (s.setSP (s.getIdx .iy))

/-- `PUSH qq` (R165). -/
def execPushQq (p : PairQq) (s : State) : Host.Outcome State Fault Refusal :=
  .next (s.push (s.getQq p))

/-- `PUSH IX` (R166). -/
def execPushIx (s : State) : Host.Outcome State Fault Refusal :=
  .next (s.push (s.getIdx .ix))

/-- `PUSH IY` (R167). -/
def execPushIy (s : State) : Host.Outcome State Fault Refusal :=
  .next (s.push (s.getIdx .iy))

/-- `POP qq` (R168). -/
def execPopQq (p : PairQq) (s : State) : Host.Outcome State Fault Refusal :=
  .next (s.dropTop.setQq p s.top)

/-- `POP IX` (R169). -/
def execPopIx (s : State) : Host.Outcome State Fault Refusal :=
  .next (s.dropTop.setIdx .ix s.top)

/-- `POP IY` (R170). -/
def execPopIy (s : State) : Host.Outcome State Fault Refusal :=
  .next (s.dropTop.setIdx .iy s.top)

end Sys2Proof.Machine
end

