-- ==== Sys2Proof/Machine/Load8.lean ====
section
/-! DEFINITION. Meanings: the 8-bit load group (40_load8.md). -/

namespace Sys2Proof.Machine

/-- A byte of I or R into A: S and Z from it, H = N = 0, P/V = iff2, C kept (R147, R148). -/
def State.loadSystem (s : State) (v : Byte) : State :=
  (s.setR8 .a v).setFlags
    { s.flags with s := v.getLsbD 7, z := v == 0, h := false, pv := s.iff2, n := false }

/-- `LD r,r'` (R130). -/
def execLdRR (r : R8) (src : R8) (s : State) : Host.Outcome State Fault Refusal :=
  .next (s.setR8 r (s.getR8 src))

/-- `LD r,n` (R131). -/
def execLdRN (r : R8) (n : Byte) (s : State) : Host.Outcome State Fault Refusal :=
  .next (s.setR8 r n)

/-- `LD r,(HL)` (R132). -/
def execLdRHl (r : R8) (s : State) : Host.Outcome State Fault Refusal :=
  .next ((s.afterRead s.hl).setR8 r (s.readByte s.hl))

/-- `LD r,(IX+d)` (R133). -/
def execLdRIxD (r : R8) (d : Byte) (s : State) : Host.Outcome State Fault Refusal :=
  .next ((s.afterRead (s.ea .ix d)).setR8 r (s.readByte (s.ea .ix d)))

/-- `LD r,(IY+d)` (R134). -/
def execLdRIyD (r : R8) (d : Byte) (s : State) : Host.Outcome State Fault Refusal :=
  .next ((s.afterRead (s.ea .iy d)).setR8 r (s.readByte (s.ea .iy d)))

/-- `LD (HL),r` (R135). -/
def execLdHlR (src : R8) (s : State) : Host.Outcome State Fault Refusal :=
  .next (s.writeByte s.hl (s.getR8 src))

/-- `LD (IX+d),r` (R136). -/
def execLdIxDR (src : R8) (d : Byte) (s : State) : Host.Outcome State Fault Refusal :=
  .next (s.writeByte (s.ea .ix d) (s.getR8 src))

/-- `LD (IY+d),r` (R137). -/
def execLdIyDR (src : R8) (d : Byte) (s : State) : Host.Outcome State Fault Refusal :=
  .next (s.writeByte (s.ea .iy d) (s.getR8 src))

/-- `LD (HL),n` (R138). -/
def execLdHlN (n : Byte) (s : State) : Host.Outcome State Fault Refusal :=
  .next (s.writeByte s.hl n)

/-- `LD (IX+d),n` (R139). -/
def execLdIxDN (d : Byte) (n : Byte) (s : State) : Host.Outcome State Fault Refusal :=
  .next (s.writeByte (s.ea .ix d) n)

/-- `LD (IY+d),n` (R140). -/
def execLdIyDN (d : Byte) (n : Byte) (s : State) : Host.Outcome State Fault Refusal :=
  .next (s.writeByte (s.ea .iy d) n)

/-- `LD A,(BC)` (R141). -/
def execLdABc (s : State) : Host.Outcome State Fault Refusal :=
  .next ((s.afterRead s.bc).setR8 .a (s.readByte s.bc))

/-- `LD A,(DE)` (R142). -/
def execLdADe (s : State) : Host.Outcome State Fault Refusal :=
  .next ((s.afterRead s.de).setR8 .a (s.readByte s.de))

/-- `LD A,(nn)` (R143). -/
def execLdANn (nn : Word) (s : State) : Host.Outcome State Fault Refusal :=
  .next ((s.afterRead nn).setR8 .a (s.readByte nn))

/-- `LD (BC),A` (R144). -/
def execLdBcA (s : State) : Host.Outcome State Fault Refusal :=
  .next (s.writeByte s.bc (s.getR8 .a))

/-- `LD (DE),A` (R145). -/
def execLdDeA (s : State) : Host.Outcome State Fault Refusal :=
  .next (s.writeByte s.de (s.getR8 .a))

/-- `LD (nn),A` (R146). -/
def execLdNnA (nn : Word) (s : State) : Host.Outcome State Fault Refusal :=
  .next (s.writeByte nn (s.getR8 .a))

/-- `LD A,I` (R147). -/
def execLdAIreg (s : State) : Host.Outcome State Fault Refusal :=
  .next (s.loadSystem s.iReg)

/-- `LD A,R` (R148). -/
def execLdARreg (s : State) : Host.Outcome State Fault Refusal :=
  .next (s.loadSystem s.rReg)

/-- `LD I,A` (R149). -/
def execLdIregA (s : State) : Host.Outcome State Fault Refusal :=
  .next ({ s with iReg := s.getR8 .a })

/-- `LD R,A` (R150). -/
def execLdRregA (s : State) : Host.Outcome State Fault Refusal :=
  .next ({ s with rReg := s.getR8 .a })

end Sys2Proof.Machine
end

