-- ==== Sys2Proof/Machine/Rotate.lean ====
section
/-! DEFINITION. Meanings: rotates and shifts (46_rotate_shift.md). -/

namespace Sys2Proof.Machine

/-- RLD: the byte for A and the byte for (HL) (R288). -/
def rldBytes (a v : Byte) : Byte × Byte :=
  (a.extractLsb' 4 4 ++ v.extractLsb' 4 4, v.extractLsb' 0 4 ++ a.extractLsb' 0 4)

/-- RRD: the byte for A and the byte for (HL) (R289). -/
def rrdBytes (a v : Byte) : Byte × Byte :=
  (a.extractLsb' 4 4 ++ v.extractLsb' 0 4, a.extractLsb' 0 4 ++ v.extractLsb' 4 4)

/-- A digit rotation: the byte at HL read and written, A, and the flags of the new A (R288, R289). -/
def State.rotateDigits (s : State) (av : Byte × Byte) : State :=
  (((s.afterRead s.hl).writeByte s.hl av.2).setR8 .a av.1).setFlags (byteFlags av.1 s.flags)

/-- `RLCA` (R256). -/
def execRlca (s : State) : Host.Outcome State Fault Refusal :=
  .next (s.rotateA .rlc)

/-- `RLA` (R257). -/
def execRla (s : State) : Host.Outcome State Fault Refusal :=
  .next (s.rotateA .rl)

/-- `RRCA` (R258). -/
def execRrca (s : State) : Host.Outcome State Fault Refusal :=
  .next (s.rotateA .rrc)

/-- `RRA` (R259). -/
def execRra (s : State) : Host.Outcome State Fault Refusal :=
  .next (s.rotateA .rr)

/-- `RLC r` (R260). -/
def execRlcR (src : R8) (s : State) : Host.Outcome State Fault Refusal :=
  .next (s.shiftPlace .rlc (.reg src))

/-- `RLC (HL)` (R261). -/
def execRlcHl (s : State) : Host.Outcome State Fault Refusal :=
  .next (s.shiftPlace .rlc .atHL)

/-- `RLC (IX+d)` (R262). -/
def execRlcIxD (d : Byte) (s : State) : Host.Outcome State Fault Refusal :=
  .next (s.shiftPlace .rlc (.atIdx .ix d))

/-- `RLC (IY+d)` (R263). -/
def execRlcIyD (d : Byte) (s : State) : Host.Outcome State Fault Refusal :=
  .next (s.shiftPlace .rlc (.atIdx .iy d))

/-- `RL r` (R264). -/
def execRlR (src : R8) (s : State) : Host.Outcome State Fault Refusal :=
  .next (s.shiftPlace .rl (.reg src))

/-- `RL (HL)` (R265). -/
def execRlHl (s : State) : Host.Outcome State Fault Refusal :=
  .next (s.shiftPlace .rl .atHL)

/-- `RL (IX+d)` (R266). -/
def execRlIxD (d : Byte) (s : State) : Host.Outcome State Fault Refusal :=
  .next (s.shiftPlace .rl (.atIdx .ix d))

/-- `RL (IY+d)` (R267). -/
def execRlIyD (d : Byte) (s : State) : Host.Outcome State Fault Refusal :=
  .next (s.shiftPlace .rl (.atIdx .iy d))

/-- `RRC r` (R268). -/
def execRrcR (src : R8) (s : State) : Host.Outcome State Fault Refusal :=
  .next (s.shiftPlace .rrc (.reg src))

/-- `RRC (HL)` (R269). -/
def execRrcHl (s : State) : Host.Outcome State Fault Refusal :=
  .next (s.shiftPlace .rrc .atHL)

/-- `RRC (IX+d)` (R270). -/
def execRrcIxD (d : Byte) (s : State) : Host.Outcome State Fault Refusal :=
  .next (s.shiftPlace .rrc (.atIdx .ix d))

/-- `RRC (IY+d)` (R271). -/
def execRrcIyD (d : Byte) (s : State) : Host.Outcome State Fault Refusal :=
  .next (s.shiftPlace .rrc (.atIdx .iy d))

/-- `RR r` (R272). -/
def execRrR (src : R8) (s : State) : Host.Outcome State Fault Refusal :=
  .next (s.shiftPlace .rr (.reg src))

/-- `RR (HL)` (R273). -/
def execRrHl (s : State) : Host.Outcome State Fault Refusal :=
  .next (s.shiftPlace .rr .atHL)

/-- `RR (IX+d)` (R274). -/
def execRrIxD (d : Byte) (s : State) : Host.Outcome State Fault Refusal :=
  .next (s.shiftPlace .rr (.atIdx .ix d))

/-- `RR (IY+d)` (R275). -/
def execRrIyD (d : Byte) (s : State) : Host.Outcome State Fault Refusal :=
  .next (s.shiftPlace .rr (.atIdx .iy d))

/-- `SLA r` (R276). -/
def execSlaR (src : R8) (s : State) : Host.Outcome State Fault Refusal :=
  .next (s.shiftPlace .sla (.reg src))

/-- `SLA (HL)` (R277). -/
def execSlaHl (s : State) : Host.Outcome State Fault Refusal :=
  .next (s.shiftPlace .sla .atHL)

/-- `SLA (IX+d)` (R278). -/
def execSlaIxD (d : Byte) (s : State) : Host.Outcome State Fault Refusal :=
  .next (s.shiftPlace .sla (.atIdx .ix d))

/-- `SLA (IY+d)` (R279). -/
def execSlaIyD (d : Byte) (s : State) : Host.Outcome State Fault Refusal :=
  .next (s.shiftPlace .sla (.atIdx .iy d))

/-- `SRA r` (R280). -/
def execSraR (src : R8) (s : State) : Host.Outcome State Fault Refusal :=
  .next (s.shiftPlace .sra (.reg src))

/-- `SRA (HL)` (R281). -/
def execSraHl (s : State) : Host.Outcome State Fault Refusal :=
  .next (s.shiftPlace .sra .atHL)

/-- `SRA (IX+d)` (R282). -/
def execSraIxD (d : Byte) (s : State) : Host.Outcome State Fault Refusal :=
  .next (s.shiftPlace .sra (.atIdx .ix d))

/-- `SRA (IY+d)` (R283). -/
def execSraIyD (d : Byte) (s : State) : Host.Outcome State Fault Refusal :=
  .next (s.shiftPlace .sra (.atIdx .iy d))

/-- `SRL r` (R284). -/
def execSrlR (src : R8) (s : State) : Host.Outcome State Fault Refusal :=
  .next (s.shiftPlace .srl (.reg src))

/-- `SRL (HL)` (R285). -/
def execSrlHl (s : State) : Host.Outcome State Fault Refusal :=
  .next (s.shiftPlace .srl .atHL)

/-- `SRL (IX+d)` (R286). -/
def execSrlIxD (d : Byte) (s : State) : Host.Outcome State Fault Refusal :=
  .next (s.shiftPlace .srl (.atIdx .ix d))

/-- `SRL (IY+d)` (R287). -/
def execSrlIyD (d : Byte) (s : State) : Host.Outcome State Fault Refusal :=
  .next (s.shiftPlace .srl (.atIdx .iy d))

/-- `RLD` (R288). -/
def execRld (s : State) : Host.Outcome State Fault Refusal :=
  .next (s.rotateDigits (rldBytes s.main.a (s.readByte s.hl)))

/-- `RRD` (R289). -/
def execRrd (s : State) : Host.Outcome State Fault Refusal :=
  .next (s.rotateDigits (rrdBytes s.main.a (s.readByte s.hl)))

end Sys2Proof.Machine
end

