-- ==== Sys2Proof/Machine/Dispatch.lean ====
section
/-! DEFINITION. The dispatch: one arm for each constructor of `Instr`, one meaning each. `exec` runs on the
state in which PC is past the instruction and R is advanced (00_scope.md R22). -/

namespace Sys2Proof.Machine

/-- The meaning of an instruction. -/
def exec (i : Instr) (s : State) : Host.Outcome State Fault Refusal :=
  match i with
  | .ldRR r src => Sys2Proof.Machine.execLdRR r src s
  | .ldRN r n => Sys2Proof.Machine.execLdRN r n s
  | .ldRHl r => Sys2Proof.Machine.execLdRHl r s
  | .ldRIxD r d => Sys2Proof.Machine.execLdRIxD r d s
  | .ldRIyD r d => Sys2Proof.Machine.execLdRIyD r d s
  | .ldHlR src => Sys2Proof.Machine.execLdHlR src s
  | .ldIxDR src d => Sys2Proof.Machine.execLdIxDR src d s
  | .ldIyDR src d => Sys2Proof.Machine.execLdIyDR src d s
  | .ldHlN n => Sys2Proof.Machine.execLdHlN n s
  | .ldIxDN d n => Sys2Proof.Machine.execLdIxDN d n s
  | .ldIyDN d n => Sys2Proof.Machine.execLdIyDN d n s
  | .ldABc => Sys2Proof.Machine.execLdABc s
  | .ldADe => Sys2Proof.Machine.execLdADe s
  | .ldANn nn => Sys2Proof.Machine.execLdANn nn s
  | .ldBcA => Sys2Proof.Machine.execLdBcA s
  | .ldDeA => Sys2Proof.Machine.execLdDeA s
  | .ldNnA nn => Sys2Proof.Machine.execLdNnA nn s
  | .ldAIreg => Sys2Proof.Machine.execLdAIreg s
  | .ldARreg => Sys2Proof.Machine.execLdARreg s
  | .ldIregA => Sys2Proof.Machine.execLdIregA s
  | .ldRregA => Sys2Proof.Machine.execLdRregA s
  | .ldDdNn p nn => Sys2Proof.Machine.execLdDdNn p nn s
  | .ldIxNn nn => Sys2Proof.Machine.execLdIxNn nn s
  | .ldIyNn nn => Sys2Proof.Machine.execLdIyNn nn s
  | .ldHlMem nn => Sys2Proof.Machine.execLdHlMem nn s
  | .ldDdMem p nn => Sys2Proof.Machine.execLdDdMem p nn s
  | .ldIxMem nn => Sys2Proof.Machine.execLdIxMem nn s
  | .ldIyMem nn => Sys2Proof.Machine.execLdIyMem nn s
  | .ldMemHl nn => Sys2Proof.Machine.execLdMemHl nn s
  | .ldMemDd p nn => Sys2Proof.Machine.execLdMemDd p nn s
  | .ldMemIx nn => Sys2Proof.Machine.execLdMemIx nn s
  | .ldMemIy nn => Sys2Proof.Machine.execLdMemIy nn s
  | .ldSpHl => Sys2Proof.Machine.execLdSpHl s
  | .ldSpIx => Sys2Proof.Machine.execLdSpIx s
  | .ldSpIy => Sys2Proof.Machine.execLdSpIy s
  | .pushQq p => Sys2Proof.Machine.execPushQq p s
  | .pushIx => Sys2Proof.Machine.execPushIx s
  | .pushIy => Sys2Proof.Machine.execPushIy s
  | .popQq p => Sys2Proof.Machine.execPopQq p s
  | .popIx => Sys2Proof.Machine.execPopIx s
  | .popIy => Sys2Proof.Machine.execPopIy s
  | .exDeHl => Sys2Proof.Machine.execExDeHl s
  | .exAfAf => Sys2Proof.Machine.execExAfAf s
  | .exx => Sys2Proof.Machine.execExx s
  | .exSpHl => Sys2Proof.Machine.execExSpHl s
  | .exSpIx => Sys2Proof.Machine.execExSpIx s
  | .exSpIy => Sys2Proof.Machine.execExSpIy s
  | .ldi => Sys2Proof.Machine.execLdi s
  | .ldir => Sys2Proof.Machine.execLdir s
  | .ldd => Sys2Proof.Machine.execLdd s
  | .lddr => Sys2Proof.Machine.execLddr s
  | .cpi => Sys2Proof.Machine.execCpi s
  | .cpir => Sys2Proof.Machine.execCpir s
  | .cpd => Sys2Proof.Machine.execCpd s
  | .cpdr => Sys2Proof.Machine.execCpdr s
  | .addR src => Sys2Proof.Machine.execAddR src s
  | .addN n => Sys2Proof.Machine.execAddN n s
  | .addHl => Sys2Proof.Machine.execAddHl s
  | .addIxD d => Sys2Proof.Machine.execAddIxD d s
  | .addIyD d => Sys2Proof.Machine.execAddIyD d s
  | .adcR src => Sys2Proof.Machine.execAdcR src s
  | .adcN n => Sys2Proof.Machine.execAdcN n s
  | .adcHl => Sys2Proof.Machine.execAdcHl s
  | .adcIxD d => Sys2Proof.Machine.execAdcIxD d s
  | .adcIyD d => Sys2Proof.Machine.execAdcIyD d s
  | .subR src => Sys2Proof.Machine.execSubR src s
  | .subN n => Sys2Proof.Machine.execSubN n s
  | .subHl => Sys2Proof.Machine.execSubHl s
  | .subIxD d => Sys2Proof.Machine.execSubIxD d s
  | .subIyD d => Sys2Proof.Machine.execSubIyD d s
  | .sbcR src => Sys2Proof.Machine.execSbcR src s
  | .sbcN n => Sys2Proof.Machine.execSbcN n s
  | .sbcHl => Sys2Proof.Machine.execSbcHl s
  | .sbcIxD d => Sys2Proof.Machine.execSbcIxD d s
  | .sbcIyD d => Sys2Proof.Machine.execSbcIyD d s
  | .andR src => Sys2Proof.Machine.execAndR src s
  | .andN n => Sys2Proof.Machine.execAndN n s
  | .andHl => Sys2Proof.Machine.execAndHl s
  | .andIxD d => Sys2Proof.Machine.execAndIxD d s
  | .andIyD d => Sys2Proof.Machine.execAndIyD d s
  | .orR src => Sys2Proof.Machine.execOrR src s
  | .orN n => Sys2Proof.Machine.execOrN n s
  | .orHl => Sys2Proof.Machine.execOrHl s
  | .orIxD d => Sys2Proof.Machine.execOrIxD d s
  | .orIyD d => Sys2Proof.Machine.execOrIyD d s
  | .xorR src => Sys2Proof.Machine.execXorR src s
  | .xorN n => Sys2Proof.Machine.execXorN n s
  | .xorHl => Sys2Proof.Machine.execXorHl s
  | .xorIxD d => Sys2Proof.Machine.execXorIxD d s
  | .xorIyD d => Sys2Proof.Machine.execXorIyD d s
  | .cpR src => Sys2Proof.Machine.execCpR src s
  | .cpN n => Sys2Proof.Machine.execCpN n s
  | .cpHl => Sys2Proof.Machine.execCpHl s
  | .cpIxD d => Sys2Proof.Machine.execCpIxD d s
  | .cpIyD d => Sys2Proof.Machine.execCpIyD d s
  | .incR r => Sys2Proof.Machine.execIncR r s
  | .incHl => Sys2Proof.Machine.execIncHl s
  | .incIxD d => Sys2Proof.Machine.execIncIxD d s
  | .incIyD d => Sys2Proof.Machine.execIncIyD d s
  | .decR r => Sys2Proof.Machine.execDecR r s
  | .decHl => Sys2Proof.Machine.execDecHl s
  | .decIxD d => Sys2Proof.Machine.execDecIxD d s
  | .decIyD d => Sys2Proof.Machine.execDecIyD d s
  | .daa => Sys2Proof.Machine.execDaa s
  | .cpl => Sys2Proof.Machine.execCpl s
  | .neg => Sys2Proof.Machine.execNeg s
  | .ccf => Sys2Proof.Machine.execCcf s
  | .scf => Sys2Proof.Machine.execScf s
  | .nop => Sys2Proof.Machine.execNop s
  | .halt => Sys2Proof.Machine.execHalt s
  | .di => Sys2Proof.Machine.execDi s
  | .ei => Sys2Proof.Machine.execEi s
  | .im0 => Sys2Proof.Machine.execIm0 s
  | .im1 => Sys2Proof.Machine.execIm1 s
  | .im2 => Sys2Proof.Machine.execIm2 s
  | .addHlSs p => Sys2Proof.Machine.execAddHlSs p s
  | .adcHlSs p => Sys2Proof.Machine.execAdcHlSs p s
  | .sbcHlSs p => Sys2Proof.Machine.execSbcHlSs p s
  | .addIxPp p => Sys2Proof.Machine.execAddIxPp p s
  | .addIyRr p => Sys2Proof.Machine.execAddIyRr p s
  | .incSs p => Sys2Proof.Machine.execIncSs p s
  | .incIx => Sys2Proof.Machine.execIncIx s
  | .incIy => Sys2Proof.Machine.execIncIy s
  | .decSs p => Sys2Proof.Machine.execDecSs p s
  | .decIx => Sys2Proof.Machine.execDecIx s
  | .decIy => Sys2Proof.Machine.execDecIy s
  | .rlca => Sys2Proof.Machine.execRlca s
  | .rla => Sys2Proof.Machine.execRla s
  | .rrca => Sys2Proof.Machine.execRrca s
  | .rra => Sys2Proof.Machine.execRra s
  | .rlcR src => Sys2Proof.Machine.execRlcR src s
  | .rlcHl => Sys2Proof.Machine.execRlcHl s
  | .rlcIxD d => Sys2Proof.Machine.execRlcIxD d s
  | .rlcIyD d => Sys2Proof.Machine.execRlcIyD d s
  | .rlR src => Sys2Proof.Machine.execRlR src s
  | .rlHl => Sys2Proof.Machine.execRlHl s
  | .rlIxD d => Sys2Proof.Machine.execRlIxD d s
  | .rlIyD d => Sys2Proof.Machine.execRlIyD d s
  | .rrcR src => Sys2Proof.Machine.execRrcR src s
  | .rrcHl => Sys2Proof.Machine.execRrcHl s
  | .rrcIxD d => Sys2Proof.Machine.execRrcIxD d s
  | .rrcIyD d => Sys2Proof.Machine.execRrcIyD d s
  | .rrR src => Sys2Proof.Machine.execRrR src s
  | .rrHl => Sys2Proof.Machine.execRrHl s
  | .rrIxD d => Sys2Proof.Machine.execRrIxD d s
  | .rrIyD d => Sys2Proof.Machine.execRrIyD d s
  | .slaR src => Sys2Proof.Machine.execSlaR src s
  | .slaHl => Sys2Proof.Machine.execSlaHl s
  | .slaIxD d => Sys2Proof.Machine.execSlaIxD d s
  | .slaIyD d => Sys2Proof.Machine.execSlaIyD d s
  | .sraR src => Sys2Proof.Machine.execSraR src s
  | .sraHl => Sys2Proof.Machine.execSraHl s
  | .sraIxD d => Sys2Proof.Machine.execSraIxD d s
  | .sraIyD d => Sys2Proof.Machine.execSraIyD d s
  | .srlR src => Sys2Proof.Machine.execSrlR src s
  | .srlHl => Sys2Proof.Machine.execSrlHl s
  | .srlIxD d => Sys2Proof.Machine.execSrlIxD d s
  | .srlIyD d => Sys2Proof.Machine.execSrlIyD d s
  | .rld => Sys2Proof.Machine.execRld s
  | .rrd => Sys2Proof.Machine.execRrd s
  | .bitR b src => Sys2Proof.Machine.execBitR b src s
  | .bitHl b => Sys2Proof.Machine.execBitHl b s
  | .bitIxD b d => Sys2Proof.Machine.execBitIxD b d s
  | .bitIyD b d => Sys2Proof.Machine.execBitIyD b d s
  | .setR b src => Sys2Proof.Machine.execSetR b src s
  | .setHl b => Sys2Proof.Machine.execSetHl b s
  | .setIxD b d => Sys2Proof.Machine.execSetIxD b d s
  | .setIyD b d => Sys2Proof.Machine.execSetIyD b d s
  | .resR b src => Sys2Proof.Machine.execResR b src s
  | .resHl b => Sys2Proof.Machine.execResHl b s
  | .resIxD b d => Sys2Proof.Machine.execResIxD b d s
  | .resIyD b d => Sys2Proof.Machine.execResIyD b d s
  | .jpNn nn => Sys2Proof.Machine.execJpNn nn s
  | .jpCcNn cc nn => Sys2Proof.Machine.execJpCcNn cc nn s
  | .jr e => Sys2Proof.Machine.execJr e s
  | .jrC e => Sys2Proof.Machine.execJrC e s
  | .jrNc e => Sys2Proof.Machine.execJrNc e s
  | .jrZ e => Sys2Proof.Machine.execJrZ e s
  | .jrNz e => Sys2Proof.Machine.execJrNz e s
  | .jpHl => Sys2Proof.Machine.execJpHl s
  | .jpIx => Sys2Proof.Machine.execJpIx s
  | .jpIy => Sys2Proof.Machine.execJpIy s
  | .djnz e => Sys2Proof.Machine.execDjnz e s
  | .callNn nn => Sys2Proof.Machine.execCallNn nn s
  | .callCcNn cc nn => Sys2Proof.Machine.execCallCcNn cc nn s
  | .ret => Sys2Proof.Machine.execRet s
  | .retCc cc => Sys2Proof.Machine.execRetCc cc s
  | .reti => Sys2Proof.Machine.execReti s
  | .retn => Sys2Proof.Machine.execRetn s
  | .rst t => Sys2Proof.Machine.execRst t s
  | .inAN n => Sys2Proof.Machine.execInAN n s
  | .inRC r => Sys2Proof.Machine.execInRC r s
  | .ini => Sys2Proof.Machine.execIni s
  | .inir => Sys2Proof.Machine.execInir s
  | .ind => Sys2Proof.Machine.execInd s
  | .indr => Sys2Proof.Machine.execIndr s
  | .outNA n => Sys2Proof.Machine.execOutNA n s
  | .outCR src => Sys2Proof.Machine.execOutCR src s
  | .outi => Sys2Proof.Machine.execOuti s
  | .otir => Sys2Proof.Machine.execOtir s
  | .outd => Sys2Proof.Machine.execOutd s
  | .otdr => Sys2Proof.Machine.execOtdr s
  | .nopEd op => Sys2Proof.Machine.execNopEd op s
  | .nopCb src => Sys2Proof.Machine.execNopCb src s
  | .nopDd => Sys2Proof.Machine.execNopDd s
  | .nopDdCb d op => Sys2Proof.Machine.execNopDdCb d op s
  | .nopFd => Sys2Proof.Machine.execNopFd s
  | .nopFdCb d op => Sys2Proof.Machine.execNopFdCb d op s

end Sys2Proof.Machine
end

