-- ==== Sys2Proof/Machine/Timing.lean ====
section
/-! DEFINITION. T-states: the `Time` of every instruction rule (00_scope.md R13, 70_reset_and_hazards.md
R425, R426). Nothing but the budget of `execute` depends on them. -/

namespace Sys2Proof.Machine

/-- The T-states of an instruction whose operation runs in state `s`; two-valued where the rule says
so. -/
def cost (i : Instr) (s : State) : Nat :=
  match i with
  | .ldRR .. | .exDeHl | .exAfAf | .exx | .addR .. | .adcR .. | .subR .. | .sbcR .. | .andR ..
    | .orR .. | .xorR .. | .cpR .. | .incR .. | .decR .. | .daa | .cpl | .ccf | .scf | .nop
    | .halt | .di | .ei | .rlca | .rla | .rrca | .rra | .jpHl | .nopDd | .nopFd => 4
  | .ldSpHl | .incSs .. | .decSs .. => 6
  | .ldRN .. | .ldRHl .. | .ldHlR .. | .ldABc | .ldADe | .ldBcA | .ldDeA | .addN .. | .addHl
    | .adcN .. | .adcHl | .subN .. | .subHl | .sbcN .. | .sbcHl | .andN .. | .andHl | .orN ..
    | .orHl | .xorN .. | .xorHl | .cpN .. | .cpHl => 7
  | .neg | .im0 | .im1 | .im2 | .rlcR .. | .rlR .. | .rrcR .. | .rrR .. | .slaR .. | .sraR ..
    | .srlR .. | .bitR .. | .setR .. | .resR .. | .jpIx | .jpIy | .nopEd .. | .nopCb .. => 8
  | .ldAIreg | .ldARreg | .ldIregA | .ldRregA => 9
  | .ldHlN .. | .ldDdNn .. | .ldSpIx | .ldSpIy | .popQq .. | .incIx | .incIy | .decIx | .decIy
    | .jpNn .. | .jpCcNn .. | .ret => 10
  | .pushQq .. | .incHl | .decHl | .addHlSs .. | .rst .. | .inAN .. | .outNA .. => 11
  | .bitHl .. | .jr .. | .inRC .. | .outCR .. => 12
  | .ldANn .. | .ldNnA .. => 13
  | .ldIxNn .. | .ldIyNn .. | .popIx | .popIy | .reti | .retn => 14
  | .pushIx | .pushIy | .adcHlSs .. | .sbcHlSs .. | .addIxPp .. | .addIyRr .. | .rlcHl | .rlHl
    | .rrcHl | .rrHl | .slaHl | .sraHl | .srlHl | .setHl .. | .resHl .. => 15
  | .ldHlMem .. | .ldMemHl .. | .ldi | .ldd | .cpi | .cpd | .ini | .ind | .outi | .outd
    | .nopDdCb .. | .nopFdCb .. => 16
  | .callNn .. => 17
  | .rld | .rrd => 18
  | .ldRIxD .. | .ldRIyD .. | .ldIxDR .. | .ldIyDR .. | .ldIxDN .. | .ldIyDN .. | .exSpHl
    | .addIxD .. | .addIyD .. | .adcIxD .. | .adcIyD .. | .subIxD .. | .subIyD .. | .sbcIxD ..
    | .sbcIyD .. | .andIxD .. | .andIyD .. | .orIxD .. | .orIyD .. | .xorIxD .. | .xorIyD ..
    | .cpIxD .. | .cpIyD .. => 19
  | .ldDdMem .. | .ldIxMem .. | .ldIyMem .. | .ldMemDd .. | .ldMemIx .. | .ldMemIy ..
    | .bitIxD .. | .bitIyD .. => 20
  | .exSpIx | .exSpIy | .incIxD .. | .incIyD .. | .decIxD .. | .decIyD .. | .rlcIxD ..
    | .rlcIyD .. | .rlIxD .. | .rlIyD .. | .rrcIxD .. | .rrcIyD .. | .rrIxD .. | .rrIyD ..
    | .slaIxD .. | .slaIyD .. | .sraIxD .. | .sraIyD .. | .srlIxD .. | .srlIyD .. | .setIxD ..
    | .setIyD .. | .resIxD .. | .resIyD .. => 23
  | .ldir => if s.copyAgain then 21 else 16
  | .lddr => if s.copyAgain then 21 else 16
  | .cpir => if s.compareAgain then 21 else 16
  | .cpdr => if s.compareAgain then 21 else 16
  | .jrC _ => if s.flags.c then 12 else 7
  | .jrNc _ => if !s.flags.c then 12 else 7
  | .jrZ _ => if s.flags.z then 12 else 7
  | .jrNz _ => if !s.flags.z then 12 else 7
  | .djnz _ => if s.main.b - 1 != 0 then 13 else 8
  | .callCcNn cc _ => if condHolds s.flags cc then 17 else 10
  | .retCc cc => if condHolds s.flags cc then 11 else 5
  | .inir => if s.ioAgain then 21 else 16
  | .indr => if s.ioAgain then 21 else 16
  | .otir => if s.ioAgain then 21 else 16
  | .otdr => if s.ioAgain then 21 else 16

end Sys2Proof.Machine
end

