-- ==== Sys2Proof/Machine/Iteration.lean ====
section
/-! DEFINITION. One iteration of the execute loop (60_exceptions.md R343): fetching an instruction,
accepting an interrupt, halted idling, and what each costs. -/

namespace Sys2Proof.Machine

/-! ### Fetching (30_encoding.md R101, R102)

The bytes after the first are what a fetch of them would answer, each after the reads before it. The decoder
takes those its instruction has, and exactly these are read: `tailReads` lists them, and with them the
look-ahead at the byte after DD or FD, which is read once by Peek and, if it belongs to the instruction, once
more by Fetch (20_memory.md R78). -/

/-- `DD` or `FD`: its next byte is looked at before it is fetched (30_encoding.md R102 step 4). -/
def looksAhead (b0 : Byte) : Bool := b0 == 0xDD || b0 == 0xFD

/-- The instruction that begins with `b0` and goes on at address `a` of a provider. -/
def Provider.instruction (m : Provider) (b0 : Byte) (a : Word) : Instr :=
  let m1 := m.after (if looksAhead b0 then [.read a, .read a] else [.read a])
  let m2 := m1.access (.read (a + 1))
  decode4 b0 (m.read a) (m1.read (a + 1)) (m2.read (a + 2))

/-- The reads that fetching such an instruction makes past its first byte, in their order. -/
def tailReads (i : Instr) (b0 : Byte) (a : Word) : List Config.MemAccess :=
  (if looksAhead b0 then [.read a] else []) ++
    (List.range (i.length - 1)).map fun k => .read (a + BitVec.ofNat 16 k)

/-- The first byte of the instruction at PC. -/
def State.firstByte (s : State) : Byte := s.readByte s.pc

/-- The instruction at PC. -/
def State.fetched (s : State) : Instr :=
  (s.afterRead s.pc).mem.instruction s.firstByte (s.pc + 1)

/-- All reads of its fetch. -/
def State.fetchReads (s : State) : List Config.MemAccess :=
  .read s.pc :: tailReads s.fetched s.firstByte (s.pc + 1)

/-- The instruction a mode 0 acceptance injects: its first byte is the bus value, its further bytes come
from memory at PC (60_exceptions.md R356). -/
def State.injected (s : State) (bus : Byte) : Instr := s.mem.instruction bus s.pc

/-- All reads of its fetch. -/
def State.injectReads (s : State) (bus : Byte) : List Config.MemAccess :=
  tailReads (s.injected bus) bus s.pc

/-- WZ takes the next free value (10_state.md R44, log entry 4). -/
def State.freshWZ (s : State) : State :=
  { s with wz := Config.wzScratch s.wzSeq, wzSeq := s.wzSeq + 1 }

/-- The state in which an instruction's operation runs: the given reads made, PC past the `n` bytes fetched
from memory, every IncR done (00_scope.md R22). -/
def State.advance (s : State) (reads : List Config.MemAccess) (n m1 : Nat) : State :=
  (({ s with mem := s.mem.after reads }.setPC (s.pc + BitVec.ofNat 16 n)).advanceR m1).freshWZ

/-- The state in which the operation of the instruction at PC runs. -/
def State.afterFetch (s : State) : State :=
  s.advance s.fetchReads s.fetched.length s.fetched.m1

/-- The state in which the operation of an injected instruction runs: one byte came from the bus. -/
def State.afterInject (s : State) (bus : Byte) : State :=
  s.advance (s.injectReads bus) ((s.injected bus).length - 1) (s.injected bus).m1

/-! ### The iteration -/

/-- `Accept(bus)` (60_exceptions.md R355 to R358). -/
def State.accept (s : State) : Host.Outcome State Fault Refusal :=
  let t := s.acceptCommon
  match s.im with
  | .im0 => exec (t.injected s.icBus) (t.afterInject s.icBus)
  | .im1 => .next t.acceptMode1
  | .im2 => .next t.acceptMode2

/-- `Iteration()` on a machine whose lock is Free (60_exceptions.md R343): the EI delay is read and
cleared, then one of acceptance, halted idling and one instruction happens. -/
def State.iteration (s : State) : Host.Outcome State Fault Refusal :=
  let t := { s with eiDelay := false }
  if s.accepts then t.accept
  else if s.halted then .next t.haltedIdle
  else exec t.fetched t.afterFetch

/-- The T-states that iteration returns (60_exceptions.md R347). -/
def State.iterationCost (s : State) : Nat :=
  let t := { s with eiDelay := false }
  if s.accepts then
    match s.im with
    | .im0 =>
      cost (t.acceptCommon.injected s.icBus) (t.acceptCommon.afterInject s.icBus) + 2
    | .im1 => 13
    | .im2 => 19
  else if s.halted then 4
  else cost t.fetched t.afterFetch

end Sys2Proof.Machine
end

