-- ==== Sys2Proof/Machine/Step.lean ====
section
/-! DEFINITION. The step: one pass of the execute loop (60_exceptions.md R341, R343), or the reason there
is none. -/

namespace Sys2Proof.Machine

/-- THE STEP. The loop's own tests come first, then the sample of the interrupt controller
(60_exceptions.md R359), then the iteration. -/
def step (s : State) : Host.Outcome State Fault Refusal :=
  match s.handle with
  | .tornDown => .fault .tornDown
  | .live =>
    if !s.memInstalled then .fault .noMemory
    else if s.hung then .fault .hung
    else
      match s.icLock with
      | .invalid => .fault .lockInvalid
      | .held .core => .fault .lockDeadlock
      | .held (.poster _) => .fault .lockWait
      | .free => s.iteration

/-- `s` with an instruction of the opcode table stored at PC, and with nothing in the way of the next
step fetching it: the reference provider over the cells there are, a live handle, a Free lock, not halted, no
interrupt that the next iteration would accept (log entry 12). -/
def State.withFetchWord (s : State) (nbits w : Nat) : State :=
  { s with
    mem := .reference (Memory.writeBytes s.mem.cells s.pc (tableBytes nbits w))
    handle := .live, memInstalled := true, icLock := .free, halted := false
    icPending := if s.accepts then false else s.icPending }

end Sys2Proof.Machine
end

