-- ==== Sys2Proof/Machine/Controller.lean ====
section
/-! DEFINITION. The interrupt controller's lock and its operations by other agents (60_exceptions.md R350
to R353, R365). Each operation is two atomic steps: an acquire, then an update that releases; they are
separate functions so that other agents can act between them (log entry 10). -/

namespace Sys2Proof.Machine

/-- The two call shapes (60_exceptions.md R351). -/
inductive Shape where
  | blocking | nonBlocking
deriving DecidableEq, Repr

/-- The one `detail` the spec uses (60_exceptions.md R365). -/
inductive Detail where
  | alreadyPending
deriving DecidableEq, Repr

/-- The status vocabulary of the host operations (60_exceptions.md R365). -/
inductive Status where
  | ok | invalidState | wouldBlock | deadlock
  | other (d : Detail)
deriving DecidableEq, Repr

/-- What one `Acquire` step does (60_exceptions.md R351). -/
inductive Acquired where
  /-- The lock is won. -/
  | won (s : State)
  /-- The operation fails and changes nothing. -/
  | failed (r : Status)
  /-- The step is not enabled: the caller waits. -/
  | waits
deriving DecidableEq, Repr

/-- What a whole call does when no other agent acts inside it. -/
inductive Called where
  | returned (r : Status) (s : State)
  | waits
deriving DecidableEq, Repr

/-- `Acquire(a, mode)` (60_exceptions.md R351); every operation on a TornDown handle returns
`InvalidState` (70_reset_and_hazards.md R408). -/
def State.acquire (s : State) (a : Agent) (m : Shape) : Acquired :=
  match s.handle with
  | .tornDown => .failed .invalidState
  | .live =>
    match s.icLock, m with
    | .invalid, _ => .failed .invalidState
    | .free, _ => .won { s with icLock := .held a }
    | .held _, .nonBlocking => .failed .wouldBlock
    | .held b, .blocking => if b = a then .failed .deadlock else .waits

/-- `Release(a)` (60_exceptions.md R351). -/
def State.release (s : State) : State := { s with icLock := .free }

/-- Step P2 of `interrupt(bus)`: the result, and the state after the release (60_exceptions.md R352). -/
def State.postHeld (s : State) (bus : Byte) : Status × State :=
  if s.icPending then (.other .alreadyPending, s.release)
  else (.ok, State.release { s with icPending := true, icBus := bus })

/-- Step C2 of `clear_interrupt()` (60_exceptions.md R353). -/
def State.clearHeld (s : State) : Status × State :=
  (.ok, State.release { s with icPending := false })

/-- `interrupt(bus)` by agent `a` with no other agent acting inside the call (60_exceptions.md R352). -/
def State.interrupt (s : State) (a : Agent) (m : Shape) (bus : Byte) : Called :=
  match s.acquire a m with
  | .won t => .returned (t.postHeld bus).1 (t.postHeld bus).2
  | .failed r => .returned r s
  | .waits => .waits

/-- `clear_interrupt()` by agent `a` with no other agent acting inside the call (60_exceptions.md
R353). -/
def State.clearInterrupt (s : State) (a : Agent) (m : Shape) : Called :=
  match s.acquire a m with
  | .won t => .returned t.clearHeld.1 t.clearHeld.2
  | .failed r => .returned r s
  | .waits => .waits

end Sys2Proof.Machine
end

