-- ==== Sys2Proof/Machine/HostOps.lean ====
section
/-! DEFINITION. The host operations that create, wire, reset and release an instance
(70_reset_and_hazards.md R400 to R409), and what the host may do between two `execute` calls
(20_memory.md R90). -/

namespace Sys2Proof.Machine

/-- `init()` (70_reset_and_hazards.md R400). -/
def State.init (g : Config.ResetGpr) : State := State.initWith g

/-- `reset(handle)`: the `reset` column of 10_state.md R56; `mem`, the ports and the host's memory and
devices stay, and a TornDown handle does nothing (70_reset_and_hazards.md R401). -/
def State.hostReset (s : State) (g : Config.ResetGpr) : State :=
  match s.handle with
  | .tornDown => s
  | .live =>
    { State.initWith g with
      ports := s.ports, devices := s.devices
      memInstalled := s.memInstalled, mem := s.mem
      wzSeq := s.wzSeq }

/-- `install_memory(handle, provider)`; no access is made to the provider (70_reset_and_hazards.md R405,
log entry 15). -/
def State.installMemory (s : State) (m : Provider) : Status × State :=
  match s.handle with
  | .tornDown => (.invalidState, s)
  | .live => (.ok, { s with memInstalled := true, mem := m.canonical })

/-- `install_device(handle, port, device)`; the port is an integer as the host passes it
(70_reset_and_hazards.md R406). -/
def State.installDevice (s : State) (port : Int) (id : Nat) : Status × State :=
  match s.handle with
  | .tornDown => (.invalidState, s)
  | .live =>
    if 0 ≤ port ∧ port < Config.portSlots then
      (.ok, { s with ports := tablePut s.ports port.toNat id })
    else (.invalidState, s)

/-- `teardown(handle)` (70_reset_and_hazards.md R408). -/
def State.teardown (s : State) : State := { s with handle := .tornDown }

/-- The host changes a cell of its memory between two `execute` calls, read-only ones included; no access of
the core (20_memory.md R90, log entry 15). -/
def State.hostPoke (s : State) (k : Word) (v : Byte) : State :=
  match s.mem with
  | .backed rs cs => { s with mem := .backed rs (Memory.write cs k.toNat v) }
  | .host .. => s

/-- The host arranges what a device of its own answers next (20_memory.md R86, R90, log entry 5). -/
def State.hostArrange (s : State) (id : Nat) (answers : List Byte) : State :=
  s.setDevice id { s.device id with answers := answers }

end Sys2Proof.Machine
end

