-- ==== Sys2Proof/Machine/Execute.lean ====
section
/-! DEFINITION. `execute(budget)`: steps under a cycle budget (60_exceptions.md R341, R342), and the
interleaving of the Core's steps with those of posters (60_exceptions.md R350). Budget and consumed
cycles are no state (10_state.md R58). -/

namespace Sys2Proof.Machine

/-- Why `execute` returned an error (60_exceptions.md R342). -/
inductive ErrorKind where
  | invalidState | deadlock
deriving DecidableEq, Repr

/-- The stop reasons (60_exceptions.md R342). -/
inductive StopReason where
  | done
  | halted (cycles : Nat)
  | hung (cycles : Nat)
  | error (kind : ErrorKind)
deriving DecidableEq, Repr

/-- What a call of `execute` comes to: it returns, or its Core waits for the lock with some budget left
(60_exceptions.md R349, R359). -/
inductive Executed where
  | returned (consumed : Nat) (stop : StopReason) (s : State)
  | waits (budget : Int) (consumed : Nat) (s : State)
deriving DecidableEq, Repr

/-- The stop reason of steps 4 to 6 of `execute`, with the cycles consumed (60_exceptions.md R341). -/
def State.stopReason (s : State) (consumed : Nat) : StopReason :=
  if s.hung then .hung consumed
  else if s.halted then .halted consumed
  else .done

/-- Steps 4 to 6 of `execute`. -/
def State.finish (s : State) (consumed : Nat) : Executed :=
  .returned consumed (s.stopReason consumed) s

/-- How a fault of the step ends the call: with an error, or not at all for a Core that waits; `hung` is an
end of the loop, no error (60_exceptions.md R341, R359). -/
def Fault.errorKind : Fault → Option ErrorKind
  | .tornDown | .noMemory | .lockInvalid => some .invalidState
  | .lockDeadlock => some .deadlock
  | .hung | .lockWait => none

/-- The loop of `execute`, steps 2 to 6, with its two locals. Every iteration takes T-states, so fuel
equal to the budget never runs out before the budget (log entry 13). -/
def executeLoop (fuel : Nat) (budget : Int) (consumed : Nat) (s : State) : Executed :=
  match fuel with
  | 0 => s.finish consumed
  | k + 1 =>
    if budget ≤ 0 ∨ s.hung = true then s.finish consumed
    else
      match step s with
      | .next t =>
        executeLoop k (budget - s.iterationCost) (consumed + s.iterationCost) t
      | .fault f =>
        match f.errorKind with
        | some e => .returned consumed (.error e) s
        | none => .waits budget consumed s
      | .refused _ => .waits budget consumed s

/-- `execute(budget)` with a signed 32-bit budget and no other agent acting inside the call
(60_exceptions.md R341). -/
def State.execute (s : State) (budget : BitVec 32) : Executed :=
  match s.handle with
  | .tornDown => .returned 0 (.error .invalidState) s
  | .live =>
    if !s.memInstalled then .returned 0 (.error .invalidState) s
    else executeLoop budget.toInt.toNat budget.toInt 0 s

/-! ### The Core, the Host and the posters together (60_exceptions.md R350)

`State.execute` is a call in which no other agent acts. Here calls and posters interleave: one event is one
atomic step of one agent, and what each operation returns is kept. -/

/-- The `execute` call in progress, with its two locals (60_exceptions.md R341). -/
structure CallInProgress where
  budget : Int
  consumed : Nat
deriving DecidableEq, Repr

/-- An instance with its agents. -/
structure System where
  state : State
  /-- The call the Core is inside, none between two calls. -/
  call : Option CallInProgress
  /-- What the calls so far returned, latest first. -/
  results : List (Nat × StopReason)
  /-- The statuses the posters' operations returned, with the poster's number, latest first. -/
  replies : List (Nat × Status)
deriving DecidableEq, Repr

/-- One atomic step of an agent. -/
inductive Event where
  /-- The Host calls `execute` with a budget. -/
  | execute (budget : BitVec 32)
  /-- One step of the Core: an iteration, or the end of the call. -/
  | core
  /-- Poster `k` tries to acquire the lock: step P1 or C1, in either call shape. -/
  | acquire (k : Nat) (m : Shape)
  /-- Poster `k`, which holds the lock, posts: step P2. -/
  | post (k : Nat) (bus : Byte)
  /-- Poster `k`, which holds the lock, clears: step C2. -/
  | clear (k : Nat)
deriving DecidableEq, Repr

/-- The call in progress returns. -/
def System.endCall (u : System) (consumed : Nat) (stop : StopReason) : System :=
  { u with call := none, results := (consumed, stop) :: u.results }

/-- Poster `k`'s operation returns `r`, leaving the state `s`. -/
def System.reply (u : System) (k : Nat) (r : Status) (s : State) : System :=
  { u with state := s, replies := (k, r) :: u.replies }

/-- The Host's call of `execute`: steps 0 and 1 of 60_exceptions.md R341. Not enabled inside a call. -/
def System.startCall (u : System) (budget : BitVec 32) : Option System :=
  match u.call with
  | some _ => none
  | none =>
    match u.state.handle with
    | .tornDown => some (u.endCall 0 (.error .invalidState))
    | .live =>
      if !u.state.memInstalled then some (u.endCall 0 (.error .invalidState))
      else some { u with call := some ⟨budget.toInt, 0⟩ }

/-- One step of the Core inside a call. Not enabled between calls, and while another agent holds the lock. -/
def System.coreStep (u : System) : Option System :=
  match u.call with
  | none => none
  | some c =>
    if c.budget ≤ 0 ∨ u.state.hung = true then
      some (u.endCall c.consumed (u.state.stopReason c.consumed))
    else
      match step u.state with
      | .next t =>
        let cost := u.state.iterationCost
        some { u with state := t, call := some ⟨c.budget - cost, c.consumed + cost⟩ }
      | .fault f => f.errorKind.map fun e => u.endCall c.consumed (.error e)
      | .refused _ => none

/-- The system after an event, none where the event is not enabled. A P1 or C1 that fails is enabled: it
changes nothing and its status is returned (60_exceptions.md R351, R352, R353). -/
def System.react (u : System) (e : Event) : Option System :=
  match e with
  | .execute b => u.startCall b
  | .core => u.coreStep
  | .acquire k m =>
    match u.state.acquire (.poster k) m with
    | .won t => some { u with state := t }
    | .failed r => some (u.reply k r u.state)
    | .waits => none
  | .post k bus =>
    if u.state.icLock = .held (.poster k) then
      some (u.reply k (u.state.postHeld bus).1 (u.state.postHeld bus).2)
    else none
  | .clear k =>
    if u.state.icLock = .held (.poster k) then
      some (u.reply k u.state.clearHeld.1 u.state.clearHeld.2)
    else none

/-- The system after a schedule of events, none where one of them is not enabled. -/
def System.reacts (u : System) : List Event → Option System
  | [] => some u
  | e :: es =>
    match u.react e with
    | some t => System.reacts t es
    | none => none

/-- An instance between two calls, before any poster has acted. -/
def System.idle (s : State) : System := ⟨s, none, [], []⟩

end Sys2Proof.Machine
end

