-- ==== Sys2Proof/Safety.lean ====
section
/-! DEFINITION. The terms claims are stated in: the invariant of the machine, when a step runs an
iteration, what two states share, and the results of the instruction rules written as arithmetic on
numbers, apart from the operations the meanings use. -/

namespace Sys2Proof.Machine

/-! ### The invariant -/

/-- Every key of a table is below a bound. -/
def tableBelow {α : Type} (hi : Nat) (t : List (Nat × α)) : Bool :=
  t.all fun kv => kv.1 < hi

/-- THE INVARIANT: memory and both tables keep their canonical form (20_memory.md R70, R71; 10_state.md
R52), and the flip-flops agree (10_state.md R55). -/
structure State.Inv (s : State) : Prop where
  memory : s.mem.wf = true
  ports : tableSorted s.ports = true
  portRange : tableBelow Config.portSlots s.ports = true
  devices : tableSorted s.devices = true
  flipFlops : s.iff1 = s.iff2

/-! ### When a step runs an iteration -/

/-- The loop's tests pass and the sample is enabled (60_exceptions.md R341, R359). -/
structure State.Running (s : State) : Prop where
  live : s.handle = .live
  memory : s.memInstalled = true
  notHung : s.hung = false
  lock : s.icLock = .free

/-- The next iteration runs the instruction at PC (60_exceptions.md R343 step 5). -/
structure State.Ready (s : State) : Prop where
  running : s.Running
  noAccept : s.accepts = false
  notHalted : s.halted = false

/-! ### What two states share -/

/-- The pieces of state an instruction can change, and one for all the rest. -/
inductive Part where
  | r8 (r : R8)
  | f | shadow | ix | iy | sp | pc | iReg | rReg | iff1 | iff2 | im | halted | eiDelay
  | memory | devices
  /-- WZ and its counter (log entry 4), the interrupt controller, the port table, the Memory slot, the
  handle: no meaning changes any of these. -/
  | wiring
deriving DecidableEq, Repr

/-- Two states agree on a piece; for memory, the provider is in the same state and every byte reads as
before. -/
def Part.same (p : Part) (s t : State) : Prop :=
  match p with
  | .r8 r => t.getR8 r = s.getR8 r
  | .f => t.main.f = s.main.f
  | .shadow => t.shadow = s.shadow
  | .ix => t.ix = s.ix
  | .iy => t.iy = s.iy
  | .sp => t.sp = s.sp
  | .pc => t.pc = s.pc
  | .iReg => t.iReg = s.iReg
  | .rReg => t.rReg = s.rReg
  | .iff1 => t.iff1 = s.iff1
  | .iff2 => t.iff2 = s.iff2
  | .im => t.im = s.im
  | .halted => t.halted = s.halted
  | .eiDelay => t.eiDelay = s.eiDelay
  | .memory => t.mem = s.mem ∧ ∀ a : Word, t.readByte a = s.readByte a
  | .devices => t.devices = s.devices
  | .wiring =>
    t.wz = s.wz ∧ t.wzSeq = s.wzSeq ∧ t.icPending = s.icPending ∧ t.icBus = s.icBus
      ∧ t.icLock = s.icLock ∧ t.ports = s.ports ∧ t.memInstalled = s.memInstalled
      ∧ t.handle = s.handle

/-- Everything but the named pieces is unchanged. -/
def Keeps (changed : List Part) (s t : State) : Prop :=
  ∀ p : Part, p ∉ changed → p.same s t

/-- Every byte outside the named addresses reads as before. -/
def KeepsMemoryBut (stored : List Word) (s t : State) : Prop :=
  ∀ a : Word, a ∉ stored → t.readByte a = s.readByte a

/-- The byte the provider of `s` answers at `a` after the accesses `xs` (20_memory.md R71). -/
def answers (s : State) (xs : List Config.MemAccess) (a : Word) : Byte := (s.mem.after xs).read a

/-- A byte of flat RAM after accesses: the last one written there, else the old one (20_memory.md R71). -/
def lastByte : List Config.MemAccess → Word → Byte → Byte
  | [], _, old => old
  | .read _ :: xs, a, old => lastByte xs a old
  | .write b v :: xs, a, old => lastByte xs a (if b = a then v else old)

/-- Exactly the accesses `xs`, in this order, lie between two states (20_memory.md R78, R82). On the
reference provider every byte of memory is then the last one written, and any other reads as before. What
another provider does with them is log entry 7's, the model's choice of form. -/
def Accessed (xs : List Config.MemAccess) (s t : State) : Prop :=
  t.mem = s.mem.after xs ∧
    (s.mem.isReference = true → ∀ a : Word, t.readByte a = lastByte xs a (s.readByte a))

/-- The instruction that begins with the byte `b0` and goes on at `a` is `i`: each further byte is what the
provider answers when it is fetched, after the accesses before it, and the byte after DD or FD is read twice,
by Peek and by Fetch (30_encoding.md R101, R102). A byte `i` does not take plays no part. -/
def GoesOn (s : State) (b0 : Byte) (before : List Config.MemAccess) (a : Word) (i : Instr) : Prop :=
  ∃ b1 b2 b3 : Byte, ∃ xs : List Config.MemAccess,
    b1 = answers s before a
      ∧ xs = before ++ (if b0 = 0xDD ∨ b0 = 0xFD then [.read a, .read a] else [.read a])
      ∧ b2 = answers s xs (a + 1) ∧ b3 = answers s (xs ++ [.read (a + 1)]) (a + 2)
      ∧ decode4 b0 b1 b2 b3 = i

/-- The instruction at PC is `i`. -/
def Fetches (s : State) (i : Instr) : Prop :=
  GoesOn s (s.readByte s.pc) [.read s.pc] (s.pc + 1) i

/-- The instruction a mode 0 acceptance injects is `i`: its first byte is the bus value (60_exceptions.md
R356). -/
def Injects (s : State) (i : Instr) : Prop := GoesOn s s.icBus [] s.pc i

/-- The reads of `n` further bytes of an instruction that begins with `b0` and goes on at `a`: one each, and
one look-ahead after DD or FD (20_memory.md R78). -/
def furtherReads (b0 : Byte) (a : Word) (n : Nat) : List Config.MemAccess :=
  (if b0 = 0xDD ∨ b0 = 0xFD then [.read a] else []) ++
    (List.range n).map fun k => .read (a + BitVec.ofNat 16 k)

/-- A region holds an address. -/
def Region.Holds (r : Region) (a : Nat) : Prop := r.first ≤ a ∧ a < r.first + r.size

/-- A region is the one that counts for an address: the first of the map that holds it (log entry 7). -/
def Decides (rs : List Region) (r : Region) (a : Nat) : Prop :=
  ∃ above below : List Region, rs = above ++ r :: below ∧ r.Holds a ∧ ∀ q ∈ above, ¬ q.Holds a

/-- The byte of a list of cells at a number: the last one listed, else `Config.memInit`. -/
def lastListed (cells : List Host.Cell) (k : Nat) : Byte :=
  ((cells.reverse.find? fun c => c.1 % 65536 = k).map (·.2)).getD Config.memInit

/-- What an instruction rule says of an instruction (00_scope.md R13, R22): its bytes, its opcode
fetches, its T-states, that it completes, what it may change, and what holds afterwards. -/
structure Follows (i : Instr) (bytes : List Byte) (m1 time : Nat) (s : State)
    (changed : List Part) (after : State → Prop) : Prop where
  bytes : encode i = bytes
  fetches : i.m1 = m1
  time : cost i s = time
  effect : ∃ t : State, exec i s = .next t ∧ Keeps changed s t ∧ after t

/-- The rule of an instruction that reaches memory: as `Follows`, with the accesses its operation makes. -/
def Accesses (i : Instr) (bytes : List Byte) (m1 time : Nat) (s : State)
    (changed : List Part) (xs : List Config.MemAccess) (after : State → Prop) : Prop :=
  Follows i bytes m1 time s (.memory :: changed) fun t => Accessed xs s t ∧ after t

/-- Flags after an instruction: the six named, with bits 5 and 3 of F as before (10_state.md R38). -/
def FlagsAre (s : State) (g : Flags) (t : State) : Prop :=
  t.flags = g ∧ t.main.f.getLsbD 5 = s.main.f.getLsbD 5 ∧ t.main.f.getLsbD 3 = s.main.f.getLsbD 3

/-! ### Results as numbers (00_scope.md R14 to R19) -/

/-- A signed value does not fit in `w` bits. -/
def overflows (w : Nat) (x : Int) : Bool :=
  decide (x < -(2 ^ (w - 1)) ∨ 2 ^ (w - 1) ≤ x)

/-- Parity as a count of ones (00_scope.md R11). -/
def evenOnes (v : Byte) : Bool :=
  ((List.range 8).filter fun i => v.getLsbD i).length % 2 == 0

/-- The flags of an 8-bit sum with carry in `c`, from the operands and the exact results. -/
def sumFlags (a v : Byte) (c : Nat) : Flags :=
  { s := decide (128 ≤ (a.toNat + v.toNat + c) % 256)
    z := decide ((a.toNat + v.toNat + c) % 256 = 0)
    h := decide (16 ≤ a.toNat % 16 + v.toNat % 16 + c)
    pv := overflows 8 (a.toInt + v.toInt + c)
    n := false
    c := decide (256 ≤ a.toNat + v.toNat + c) }

/-- The flags of an 8-bit difference with borrow in `c`. -/
def diffFlags (a v : Byte) (c : Nat) : Flags :=
  { s := decide (128 ≤ (a.toNat + 512 - v.toNat - c) % 256)
    z := decide ((a.toNat + 512 - v.toNat - c) % 256 = 0)
    h := decide (a.toNat % 16 < v.toNat % 16 + c)
    pv := overflows 8 (a.toInt - v.toInt - c)
    n := true
    c := decide (a.toNat < v.toNat + c) }

/-- The flags of a logical result. -/
def logicFlags (res : Byte) (h : Bool) : Flags :=
  { s := res.getLsbD 7, z := decide (res = 0), h := h, pv := evenOnes res, n := false, c := false }

/-- The flags of a 16-bit sum with carry in `c`. -/
def sumFlags16 (a v : Word) (c : Nat) : Flags :=
  { s := decide (32768 ≤ (a.toNat + v.toNat + c) % 65536)
    z := decide ((a.toNat + v.toNat + c) % 65536 = 0)
    h := decide (4096 ≤ a.toNat % 4096 + v.toNat % 4096 + c)
    pv := overflows 16 (a.toInt + v.toInt + c)
    n := false
    c := decide (65536 ≤ a.toNat + v.toNat + c) }

/-- The flags of a 16-bit difference with borrow in `c`. -/
def diffFlags16 (a v : Word) (c : Nat) : Flags :=
  { s := decide (32768 ≤ (a.toNat + 131072 - v.toNat - c) % 65536)
    z := decide ((a.toNat + 131072 - v.toNat - c) % 65536 = 0)
    h := decide (a.toNat % 4096 < v.toNat % 4096 + c)
    pv := overflows 16 (a.toInt - v.toInt - c)
    n := true
    c := decide (a.toNat < v.toNat + c) }

/-- The flags after a byte arrives without arithmetic: S, Z, parity, H = N = 0, C kept. -/
def arrivalFlags (v : Byte) (old : Flags) : Flags :=
  { s := v.getLsbD 7, z := decide (v = 0), h := false, pv := evenOnes v, n := false, c := old.c }

/-- A sum in A and its flags. -/
def SumInA (s : State) (v : Byte) (c : Nat) (t : State) : Prop :=
  t.main.a.toNat = (s.main.a.toNat + v.toNat + c) % 256 ∧ FlagsAre s (sumFlags s.main.a v c) t

/-- A difference in A and its flags. -/
def DiffInA (s : State) (v : Byte) (c : Nat) (t : State) : Prop :=
  t.main.a.toNat = (s.main.a.toNat + 512 - v.toNat - c) % 256
    ∧ FlagsAre s (diffFlags s.main.a v c) t

/-- A logical result in A, bit by bit, and its flags. -/
def LogicInA (s : State) (op : Bool → Bool → Bool) (v : Byte) (h : Bool) (t : State) : Prop :=
  (∀ i : Nat, t.main.a.getLsbD i = op (s.main.a.getLsbD i) (v.getLsbD i))
    ∧ FlagsAre s (logicFlags t.main.a h) t

/-! ### Pairs, conditions, ports -/

/-- The pieces a `dd` or `ss` pair is made of. -/
def ddParts : PairDd → List Part
  | .bc => [.r8 .b, .r8 .c]
  | .de => [.r8 .d, .r8 .e]
  | .hl => [.r8 .h, .r8 .l]
  | .sp => [.sp]

/-- The pieces a `qq` pair is made of. -/
def qqParts : PairQq → List Part
  | .bc => [.r8 .b, .r8 .c]
  | .de => [.r8 .d, .r8 .e]
  | .hl => [.r8 .h, .r8 .l]
  | .af => [.r8 .a, .f]

/-- HL. -/
def hlParts : List Part := [.r8 .h, .r8 .l]

/-- BC, DE and HL. -/
def bankParts : List Part := [.r8 .b, .r8 .c, .r8 .d, .r8 .e, .r8 .h, .r8 .l]

/-- The bit of F a condition reads and the value it asks for (00_scope.md R20). -/
def condBit : Cond → Nat × Bool
  | .nz => (6, false)
  | .z => (6, true)
  | .nc => (0, false)
  | .c => (0, true)
  | .po => (2, false)
  | .pe => (2, true)
  | .p => (7, false)
  | .m => (7, true)

/-- A condition holds. -/
abbrev Taken (s : State) (cc : Cond) : Prop := s.main.f.getLsbD (condBit cc).1 = (condBit cc).2

/-- A displacement read as a signed byte moves an address (30_encoding.md R108). -/
def displaced (base : Word) (d : Byte) : Word := BitVec.ofInt 16 (base.toNat + d.toInt)

/-- One `IoRead(p)` that returned `v` lies between two states (20_memory.md R87): an empty port gives 0
and calls nothing, a device sees exactly one `read_in` and its byte is returned unmodified. -/
def ReadsPort (s : State) (p v : Byte) (t : State) : Prop :=
  (tableGet s.ports p.toNat = none → v = 0 ∧ t.devices = s.devices) ∧
  ∀ id : Nat, tableGet s.ports p.toNat = some id →
    (t.device id).calls = .readIn v :: (s.device id).calls
      ∧ (∀ x rest, (s.device id).answers = x :: rest → v = x ∧ (t.device id).answers = rest)
      ∧ ∀ q : Nat, q ≠ id → t.device q = s.device q

/-- One `IoWrite(p, v)` lies between two states (20_memory.md R88). -/
def WritesPort (s : State) (p v : Byte) (t : State) : Prop :=
  (tableGet s.ports p.toNat = none → t.devices = s.devices) ∧
  ∀ id : Nat, tableGet s.ports p.toNat = some id →
    (t.device id).calls = .writeOut v :: (s.device id).calls
      ∧ (t.device id).answers = (s.device id).answers
      ∧ ∀ q : Nat, q ≠ id → t.device q = s.device q

/-- The reset table of 10_state.md R56, but for the wiring. -/
structure ResetValues (g : Config.ResetGpr) (t : State) : Prop where
  pc : t.pc = 0
  system : t.iReg = 0 ∧ t.rReg = 0 ∧ t.iff1 = false ∧ t.iff2 = false ∧ t.im = .im0
    ∧ t.halted = false ∧ t.eiDelay = false
  main : t.af = g.af ∧ t.bc = g.bc ∧ t.de = g.de ∧ t.hl = g.hl
  shadow : t.shadow.af = g.afShadow ∧ t.shadow.bc = g.bcShadow ∧ t.shadow.de = g.deShadow
    ∧ t.shadow.hl = g.hlShadow
  words : t.ix = g.ix ∧ t.iy = g.iy ∧ t.sp = g.sp
  line : t.icPending = false ∧ t.icBus = 0 ∧ t.icLock = .free
  handle : t.handle = .live

/-- A two-digit decimal number as packed BCD. -/
def packBcd (n : Nat) : Byte := BitVec.ofNat 8 (n / 10 % 10 * 16 + n % 10)

/-! ### Whole-machine tables -/

/-- The addresses an instruction that runs in state `s` stores to. -/
def storedTo (s : State) (i : Instr) : List Word :=
  match i with
  | .ldHlR _ | .ldHlN _ | .incHl | .decHl | .rlcHl | .rlHl | .rrcHl | .rrHl | .slaHl | .sraHl
  | .srlHl | .rld | .rrd | .setHl _ | .resHl _ | .ini | .inir | .ind | .indr => [s.hl]
  | .ldIxDR _ d | .ldIxDN d _ | .incIxD d | .decIxD d | .rlcIxD d | .rlIxD d | .rrcIxD d
  | .rrIxD d | .slaIxD d | .sraIxD d | .srlIxD d | .setIxD _ d | .resIxD _ d =>
    [displaced s.ix d]
  | .ldIyDR _ d | .ldIyDN d _ | .incIyD d | .decIyD d | .rlcIyD d | .rlIyD d | .rrcIyD d
  | .rrIyD d | .slaIyD d | .sraIyD d | .srlIyD d | .setIyD _ d | .resIyD _ d =>
    [displaced s.iy d]
  | .ldBcA => [s.bc]
  | .ldDeA | .ldi | .ldir | .ldd | .lddr => [s.de]
  | .ldNnA nn => [nn]
  | .ldMemHl nn | .ldMemDd _ nn | .ldMemIx nn | .ldMemIy nn => [nn, nn + 1]
  | .pushQq _ | .pushIx | .pushIy | .callNn _ | .callCcNn .. | .rst _ => [s.sp - 1, s.sp - 2]
  | .exSpHl | .exSpIx | .exSpIy => [s.sp, s.sp + 1]
  | .ldRR .. | .ldRN .. | .ldRHl .. | .ldRIxD .. | .ldRIyD .. | .ldABc | .ldADe | .ldANn ..
    | .ldAIreg | .ldARreg | .ldIregA | .ldRregA | .ldDdNn .. | .ldIxNn .. | .ldIyNn ..
    | .ldHlMem .. | .ldDdMem .. | .ldIxMem .. | .ldIyMem .. | .ldSpHl | .ldSpIx | .ldSpIy
    | .popQq .. | .popIx | .popIy | .exDeHl | .exAfAf | .exx | .cpi | .cpir | .cpd | .cpdr
    | .addR .. | .addN .. | .addHl | .addIxD .. | .addIyD .. | .adcR .. | .adcN .. | .adcHl
    | .adcIxD .. | .adcIyD .. | .subR .. | .subN .. | .subHl | .subIxD .. | .subIyD ..
    | .sbcR .. | .sbcN .. | .sbcHl | .sbcIxD .. | .sbcIyD .. | .andR .. | .andN .. | .andHl
    | .andIxD .. | .andIyD .. | .orR .. | .orN .. | .orHl | .orIxD .. | .orIyD .. | .xorR ..
    | .xorN .. | .xorHl | .xorIxD .. | .xorIyD .. | .cpR .. | .cpN .. | .cpHl | .cpIxD ..
    | .cpIyD .. | .incR .. | .decR .. | .daa | .cpl | .neg | .ccf | .scf | .nop | .halt | .di
    | .ei | .im0 | .im1 | .im2 | .addHlSs .. | .adcHlSs .. | .sbcHlSs .. | .addIxPp ..
    | .addIyRr .. | .incSs .. | .incIx | .incIy | .decSs .. | .decIx | .decIy | .rlca | .rla
    | .rrca | .rra | .rlcR .. | .rlR .. | .rrcR .. | .rrR .. | .slaR .. | .sraR .. | .srlR ..
    | .bitR .. | .bitHl .. | .bitIxD .. | .bitIyD .. | .setR .. | .resR .. | .jpNn ..
    | .jpCcNn .. | .jr .. | .jrC .. | .jrNc .. | .jrZ .. | .jrNz .. | .jpHl | .jpIx | .jpIy
    | .djnz .. | .ret | .retCc .. | .reti | .retn | .inAN .. | .inRC .. | .outNA .. | .outCR ..
    | .outi | .otir | .outd | .otdr | .nopEd .. | .nopCb .. | .nopDd | .nopDdCb .. | .nopFd
    | .nopFdCb .. => []

/-- The bits of F an instruction may change: the table of 10_state.md R37. -/
def flagBits (i : Instr) : List Nat :=
  match i with
  | .addR _ | .addN _ | .addHl | .addIxD _ | .addIyD _ | .adcR _ | .adcN _ | .adcHl | .adcIxD _
  | .adcIyD _ | .subR _ | .subN _ | .subHl | .subIxD _ | .subIyD _ | .sbcR _ | .sbcN _ | .sbcHl
  | .sbcIxD _ | .sbcIyD _ | .cpR _ | .cpN _ | .cpHl | .cpIxD _ | .cpIyD _ | .neg
  | .andR _ | .andN _ | .andHl | .andIxD _ | .andIyD _ | .orR _ | .orN _ | .orHl | .orIxD _
  | .orIyD _ | .xorR _ | .xorN _ | .xorHl | .xorIxD _ | .xorIyD _ | .adcHlSs _ | .sbcHlSs _
  | .rlcR _ | .rlcHl | .rlcIxD _ | .rlcIyD _ | .rlR _ | .rlHl | .rlIxD _ | .rlIyD _
  | .rrcR _ | .rrcHl | .rrcIxD _ | .rrcIyD _ | .rrR _ | .rrHl | .rrIxD _ | .rrIyD _
  | .slaR _ | .slaHl | .slaIxD _ | .slaIyD _ | .sraR _ | .sraHl | .sraIxD _ | .sraIyD _
  | .srlR _ | .srlHl | .srlIxD _ | .srlIyD _ => [7, 6, 4, 2, 1, 0]
  | .incR _ | .incHl | .incIxD _ | .incIyD _ | .decR _ | .decHl | .decIxD _ | .decIyD _
  | .rld | .rrd | .ldAIreg | .ldARreg | .cpi | .cpir | .cpd | .cpdr | .inRC _ => [7, 6, 4, 2, 1]
  | .addHlSs _ | .addIxPp _ | .addIyRr _ | .rlca | .rla | .rrca | .rra | .scf | .ccf => [4, 1, 0]
  | .daa => [7, 6, 4, 2, 0]
  | .cpl => [4, 1]
  | .bitR .. | .bitHl _ | .bitIxD .. | .bitIyD .. => [6, 4, 1]
  | .ldi | .ldir | .ldd | .lddr => [4, 2, 1]
  | .ini | .ind | .inir | .indr | .outi | .outd | .otir | .otdr => [6, 1]
  | .popQq .af | .exAfAf => [7, 6, 5, 4, 3, 2, 1, 0]
  | .ldRR .. | .ldRN .. | .ldRHl .. | .ldRIxD .. | .ldRIyD .. | .ldHlR .. | .ldIxDR ..
    | .ldIyDR .. | .ldHlN .. | .ldIxDN .. | .ldIyDN .. | .ldABc | .ldADe | .ldANn .. | .ldBcA
    | .ldDeA | .ldNnA .. | .ldIregA | .ldRregA | .ldDdNn .. | .ldIxNn .. | .ldIyNn ..
    | .ldHlMem .. | .ldDdMem .. | .ldIxMem .. | .ldIyMem .. | .ldMemHl .. | .ldMemDd ..
    | .ldMemIx .. | .ldMemIy .. | .ldSpHl | .ldSpIx | .ldSpIy | .pushQq .. | .pushIx | .pushIy
    | .popQq .bc | .popQq .de | .popQq .hl | .popIx | .popIy | .exDeHl | .exx | .exSpHl
    | .exSpIx | .exSpIy | .nop | .halt | .di | .ei | .im0 | .im1 | .im2 | .incSs .. | .incIx
    | .incIy | .decSs .. | .decIx | .decIy | .setR .. | .setHl .. | .setIxD .. | .setIyD ..
    | .resR .. | .resHl .. | .resIxD .. | .resIyD .. | .jpNn .. | .jpCcNn .. | .jr .. | .jrC ..
    | .jrNc .. | .jrZ .. | .jrNz .. | .jpHl | .jpIx | .jpIy | .djnz .. | .callNn ..
    | .callCcNn .. | .ret | .retCc .. | .reti | .retn | .rst .. | .inAN .. | .outNA ..
    | .outCR .. | .nopEd .. | .nopCb .. | .nopDd | .nopDdCb .. | .nopFd | .nopFdCb .. => []

/-- The instructions that may change PC beyond the fetch (10_state.md R35). -/
def writesPC (i : Instr) : Bool :=
  match i with
  | .jpNn _ | .jpCcNn .. | .jr _ | .jrC _ | .jrNc _ | .jrZ _ | .jrNz _ | .jpHl | .jpIx | .jpIy
  | .djnz _ | .callNn _ | .callCcNn .. | .ret | .retCc _ | .reti | .retn | .rst _
  | .ldir | .lddr | .cpir | .cpdr | .inir | .indr | .otir | .otdr => true
  | .ldRR .. | .ldRN .. | .ldRHl .. | .ldRIxD .. | .ldRIyD .. | .ldHlR .. | .ldIxDR ..
    | .ldIyDR .. | .ldHlN .. | .ldIxDN .. | .ldIyDN .. | .ldABc | .ldADe | .ldANn .. | .ldBcA
    | .ldDeA | .ldNnA .. | .ldAIreg | .ldARreg | .ldIregA | .ldRregA | .ldDdNn .. | .ldIxNn ..
    | .ldIyNn .. | .ldHlMem .. | .ldDdMem .. | .ldIxMem .. | .ldIyMem .. | .ldMemHl ..
    | .ldMemDd .. | .ldMemIx .. | .ldMemIy .. | .ldSpHl | .ldSpIx | .ldSpIy | .pushQq ..
    | .pushIx | .pushIy | .popQq .. | .popIx | .popIy | .exDeHl | .exAfAf | .exx | .exSpHl
    | .exSpIx | .exSpIy | .ldi | .ldd | .cpi | .cpd | .addR .. | .addN .. | .addHl | .addIxD ..
    | .addIyD .. | .adcR .. | .adcN .. | .adcHl | .adcIxD .. | .adcIyD .. | .subR .. | .subN ..
    | .subHl | .subIxD .. | .subIyD .. | .sbcR .. | .sbcN .. | .sbcHl | .sbcIxD .. | .sbcIyD ..
    | .andR .. | .andN .. | .andHl | .andIxD .. | .andIyD .. | .orR .. | .orN .. | .orHl
    | .orIxD .. | .orIyD .. | .xorR .. | .xorN .. | .xorHl | .xorIxD .. | .xorIyD .. | .cpR ..
    | .cpN .. | .cpHl | .cpIxD .. | .cpIyD .. | .incR .. | .incHl | .incIxD .. | .incIyD ..
    | .decR .. | .decHl | .decIxD .. | .decIyD .. | .daa | .cpl | .neg | .ccf | .scf | .nop
    | .halt | .di | .ei | .im0 | .im1 | .im2 | .addHlSs .. | .adcHlSs .. | .sbcHlSs ..
    | .addIxPp .. | .addIyRr .. | .incSs .. | .incIx | .incIy | .decSs .. | .decIx | .decIy
    | .rlca | .rla | .rrca | .rra | .rlcR .. | .rlcHl | .rlcIxD .. | .rlcIyD .. | .rlR ..
    | .rlHl | .rlIxD .. | .rlIyD .. | .rrcR .. | .rrcHl | .rrcIxD .. | .rrcIyD .. | .rrR ..
    | .rrHl | .rrIxD .. | .rrIyD .. | .slaR .. | .slaHl | .slaIxD .. | .slaIyD .. | .sraR ..
    | .sraHl | .sraIxD .. | .sraIyD .. | .srlR .. | .srlHl | .srlIxD .. | .srlIyD .. | .rld
    | .rrd | .bitR .. | .bitHl .. | .bitIxD .. | .bitIyD .. | .setR .. | .setHl .. | .setIxD ..
    | .setIyD .. | .resR .. | .resHl .. | .resIxD .. | .resIyD .. | .inAN .. | .inRC .. | .ini
    | .ind | .outNA .. | .outCR .. | .outi | .outd | .nopEd .. | .nopCb .. | .nopDd
    | .nopDdCb .. | .nopFd | .nopFdCb .. => false

/-- The instructions that reach an I/O port (20_memory.md R70: the twelve of 49_io.md). -/
def reachesPort (i : Instr) : Bool :=
  match i with
  | .inAN _ | .inRC _ | .ini | .inir | .ind | .indr | .outNA _ | .outCR _ | .outi | .otir | .outd
  | .otdr => true
  | .ldRR .. | .ldRN .. | .ldRHl .. | .ldRIxD .. | .ldRIyD .. | .ldHlR .. | .ldIxDR ..
    | .ldIyDR .. | .ldHlN .. | .ldIxDN .. | .ldIyDN .. | .ldABc | .ldADe | .ldANn .. | .ldBcA
    | .ldDeA | .ldNnA .. | .ldAIreg | .ldARreg | .ldIregA | .ldRregA | .ldDdNn .. | .ldIxNn ..
    | .ldIyNn .. | .ldHlMem .. | .ldDdMem .. | .ldIxMem .. | .ldIyMem .. | .ldMemHl ..
    | .ldMemDd .. | .ldMemIx .. | .ldMemIy .. | .ldSpHl | .ldSpIx | .ldSpIy | .pushQq ..
    | .pushIx | .pushIy | .popQq .. | .popIx | .popIy | .exDeHl | .exAfAf | .exx | .exSpHl
    | .exSpIx | .exSpIy | .ldi | .ldir | .ldd | .lddr | .cpi | .cpir | .cpd | .cpdr | .addR ..
    | .addN .. | .addHl | .addIxD .. | .addIyD .. | .adcR .. | .adcN .. | .adcHl | .adcIxD ..
    | .adcIyD .. | .subR .. | .subN .. | .subHl | .subIxD .. | .subIyD .. | .sbcR .. | .sbcN ..
    | .sbcHl | .sbcIxD .. | .sbcIyD .. | .andR .. | .andN .. | .andHl | .andIxD .. | .andIyD ..
    | .orR .. | .orN .. | .orHl | .orIxD .. | .orIyD .. | .xorR .. | .xorN .. | .xorHl
    | .xorIxD .. | .xorIyD .. | .cpR .. | .cpN .. | .cpHl | .cpIxD .. | .cpIyD .. | .incR ..
    | .incHl | .incIxD .. | .incIyD .. | .decR .. | .decHl | .decIxD .. | .decIyD .. | .daa
    | .cpl | .neg | .ccf | .scf | .nop | .halt | .di | .ei | .im0 | .im1 | .im2 | .addHlSs ..
    | .adcHlSs .. | .sbcHlSs .. | .addIxPp .. | .addIyRr .. | .incSs .. | .incIx | .incIy
    | .decSs .. | .decIx | .decIy | .rlca | .rla | .rrca | .rra | .rlcR .. | .rlcHl | .rlcIxD ..
    | .rlcIyD .. | .rlR .. | .rlHl | .rlIxD .. | .rlIyD .. | .rrcR .. | .rrcHl | .rrcIxD ..
    | .rrcIyD .. | .rrR .. | .rrHl | .rrIxD .. | .rrIyD .. | .slaR .. | .slaHl | .slaIxD ..
    | .slaIyD .. | .sraR .. | .sraHl | .sraIxD .. | .sraIyD .. | .srlR .. | .srlHl | .srlIxD ..
    | .srlIyD .. | .rld | .rrd | .bitR .. | .bitHl .. | .bitIxD .. | .bitIyD .. | .setR ..
    | .setHl .. | .setIxD .. | .setIyD .. | .resR .. | .resHl .. | .resIxD .. | .resIyD ..
    | .jpNn .. | .jpCcNn .. | .jr .. | .jrC .. | .jrNc .. | .jrZ .. | .jrNz .. | .jpHl | .jpIx
    | .jpIy | .djnz .. | .callNn .. | .callCcNn .. | .ret | .retCc .. | .reti | .retn | .rst ..
    | .nopEd .. | .nopCb .. | .nopDd | .nopDdCb .. | .nopFd | .nopFdCb .. => false

/-! ### Shifts, bit by bit (00_scope.md R18) -/

/-- `new` is `old` moved one place up, with `inBit` at the bottom. -/
def ShiftedUp (old new : Byte) (inBit : Bool) : Prop :=
  new.getLsbD 0 = inBit ∧ ∀ i : Nat, i < 7 → new.getLsbD (i + 1) = old.getLsbD i

/-- `new` is `old` moved one place down, with `inBit` at the top. -/
def ShiftedDown (old new : Byte) (inBit : Bool) : Prop :=
  new.getLsbD 7 = inBit ∧ ∀ i : Nat, i < 7 → new.getLsbD i = old.getLsbD (i + 1)

/-- The flags of a CB-table shift. -/
def shiftedFlags (new : Byte) (out : Bool) : Flags :=
  { s := new.getLsbD 7, z := decide (new = 0), h := false, pv := evenOnes new, n := false, c := out }

/-! ### Shared forms of statements -/

/-- `new` is `old` with bit `b` made `v`. -/
def BitMade (old new : Byte) (b : BitVec 3) (v : Bool) : Prop :=
  ∀ k : Nat, k < 8 → new.getLsbD k = if k = b.toNat then v else old.getLsbD k

/-- A byte at an address read, changed and written, with what its flags become. -/
def Rewrites (i : Instr) (bytes : List Byte) (m1 time : Nat) (s : State) (changed : List Part)
    (a : Word) (v : Byte) (after : State → Prop) : Prop :=
  Accesses i bytes m1 time s changed [.read a, .write a v] after

/-- A CB-table operation on the byte at an address. -/
def ShiftsAt (i : Instr) (bytes : List Byte) (time : Nat) (s : State) (a : Word)
    (shifts : Byte → Bool → Byte → Prop) (out : Byte → Bool) : Prop :=
  ∃ v : Byte, shifts (s.readByte a) s.flags.c v ∧
    Rewrites i bytes 2 time s [.f] a v (FlagsAre s (shiftedFlags v (out (s.readByte a))))

/-- SET or RES of a bit of the byte at an address. -/
def MakesBitAt (i : Instr) (bytes : List Byte) (time : Nat) (s : State) (a : Word) (b : BitVec 3)
    (made : Bool) : Prop :=
  ∃ v : Byte, BitMade (s.readByte a) v b made ∧
    Rewrites i bytes 2 time s [] a v (fun _ => True)

/-- One CB-table operation in its four forms: `y` is its code, and `shifts old c new` its effect on the
byte with the carry before it, `out` the bit shifted out. -/
def ShiftForms (y : BitVec 3) (onR : R8 → Instr) (onHl : Instr) (onIx onIy : Byte → Instr)
    (shifts : Byte → Bool → Byte → Prop) (out : Byte → Bool) : Prop :=
  ∀ (s : State) (r : R8) (d : Byte),
    Follows (onR r) [0xCB, byte233 0b00 y r.code] 2 8 s [.r8 r, .f]
      (fun t => shifts (s.getR8 r) s.flags.c (t.getR8 r)
        ∧ FlagsAre s (shiftedFlags (t.getR8 r) (out (s.getR8 r))) t) ∧
    ShiftsAt onHl [0xCB, byte233 0b00 y 0b110] 15 s s.hl shifts out ∧
    ShiftsAt (onIx d) [0xDD, 0xCB, d, byte233 0b00 y 0b110] 23 s (displaced s.ix d) shifts out ∧
    ShiftsAt (onIy d) [0xFD, 0xCB, d, byte233 0b00 y 0b110] 23 s (displaced s.iy d) shifts out

/-- The flags after BIT on byte `v`. -/
def BitTested (s : State) (b : BitVec 3) (v : Byte) (t : State) : Prop :=
  FlagsAre s { s.flags with z := !v.getLsbD b.toNat, h := true, n := false } t

/-- The accesses of `Push(w)`: high byte first (00_scope.md R21). -/
def pushed (s : State) (w : Word) : List Config.MemAccess :=
  [.write (s.sp - 1) (hiByte w), .write (s.sp - 2) (loByte w)]

/-- The accesses of `Pop()`: low byte first (00_scope.md R21). -/
def popped (s : State) : List Config.MemAccess := [.read s.sp, .read (s.sp + 1)]

/-- `w` is the word at `a`: low byte read first (20_memory.md R74). -/
def WordAt (s : State) (a w : Word) : Prop :=
  loByte w = s.readByte a ∧ hiByte w = answers s [.read a] (a + 1)

/-- The stack has grown by a word and PC is at the target. -/
def CalledTo (s : State) (target : Word) (t : State) : Prop :=
  t.sp = s.sp - 2 ∧ t.pc = target

/-- The top of the stack is in PC. -/
def ReturnedFrom (s t : State) : Prop :=
  WordAt s s.sp t.pc ∧ t.sp = s.sp + 2

/-- One repetition of a block input that got the byte `v`: HL moves by `dir`, B counts down. -/
def BlockInput (s : State) (dir : Word) (v : Byte) (t : State) : Prop :=
  ReadsPort s s.main.c v t ∧ t.hl = s.hl + dir ∧ t.main.b = s.main.b - 1
    ∧ FlagsAre s { s.flags with z := decide (s.main.b = 1), n := true } t

/-- One repetition of a block output. -/
def BlockOutput (s : State) (dir : Word) (t : State) : Prop :=
  WritesPort s s.main.c (s.readByte s.hl) t ∧ t.hl = s.hl + dir ∧ t.main.b = s.main.b - 1
    ∧ FlagsAre s { s.flags with z := decide (s.main.b = 1), n := true } t

/-- What the block I/O instructions change, PC and memory apart. -/
def blockPortParts : List Part := [.r8 .b, .r8 .h, .r8 .l, .f, .devices]

end Sys2Proof.Machine
end

