-- ==== Sys2Proof/Certificates/Slice0/Obligations.lean ====
section
/-! DEFINITION. The statements for the provers, from the numbered rules of spec/. A statement over all
states holds in states no run reaches too, unless it names an invariant. -/

open Sys2Proof Sys2Proof.Machine

/-! ### Reset and the host operations -/

/-- R56, R400, R401, R402: what init and reset leave, for every value of `RESET_GPR`, and that the first
iteration after reset runs the instruction at 0x0000. -/
def Obligations.ResetTableAndFirstFetch : Prop :=
  ∀ g : Config.ResetGpr,
    (ResetValues g (State.init g) ∧ (State.init g).memInstalled = false
      ∧ ∀ p : Nat, tableGet (State.init g).ports p = none)
    ∧ ∀ s : State,
      (s.handle = .live →
        ResetValues g (s.hostReset g)
          ∧ (s.hostReset g).ports = s.ports ∧ (s.hostReset g).memInstalled = s.memInstalled
          ∧ (s.hostReset g).mem = s.mem ∧ (s.hostReset g).devices = s.devices
          ∧ (s.memInstalled = true →
            (s.hostReset g).Ready
              ∧ ∃ (i : Instr) (t : State), GoesOn s (s.readByte 0) [.read 0] 1 i
                ∧ step (s.hostReset g) = exec i t
                ∧ t.pc = BitVec.ofNat 16 i.length
                ∧ t.mem = s.mem.after (.read 0 :: furtherReads (s.readByte 0) 1 (i.length - 1))))
      ∧ (s.handle = .tornDown → s.hostReset g = s)

/-- The state the model starts from (log entries 1, 2, 3: DESIGN CHOICE) is an instance with the
reference memory installed; it meets the invariant and is ready to run. -/
def Obligations.ResetStateIsReady : Prop :=
  State.reset = ((State.init Config.resetGpr).installMemory (.reference [])).2
    ∧ State.reset.Inv ∧ State.reset.Ready

/-- R405, R406, R408: install_memory, install_device, teardown. That a provider is given by a map of regions
over cells, or by a number, is log entry 7 and, for the cells, log entry 15, both the model's choice. -/
def Obligations.InstallAndTeardown : Prop :=
  ∀ (s : State) (m : Provider) (port : Int) (id : Nat),
    (s.handle = .live →
      ((s.installMemory m).1 = .ok
        ∧ (s.installMemory m).2 =
          { s with memInstalled := true, mem := (s.installMemory m).2.mem }
        ∧ (s.installMemory m).2.mem.wf = true
        ∧ (∀ (n : Nat) (log : List Config.MemAccess), m = .host n log →
          (s.installMemory m).2.mem = .host n log)
        ∧ (∀ (rs : List Region) (cells : List Host.Cell), m = .backed rs cells →
          (∃ kept : Memory, (s.installMemory m).2.mem = .backed rs kept) ∧
          ∀ a : Word,
            ((∀ r ∈ rs, ¬ r.Holds a.toNat) →
              (s.installMemory m).2.readByte a = lastListed cells a.toNat) ∧
            ∀ r : Region, Decides rs r a.toNat →
              (∀ (base : Nat) (w : Bool), r.backing = .cells base w →
                (s.installMemory m).2.readByte a =
                  lastListed cells ((base + (a.toNat - r.first)) % 65536))
              ∧ (∀ v : Byte, r.backing = .absent v → (s.installMemory m).2.readByte a = v))
        ∧ ∀ old : Provider, (s.installMemory old).2.installMemory m = s.installMemory m)
        ∧ (0 ≤ port ∧ port ≤ 255 →
          (s.installDevice port id).1 = .ok
            ∧ (∀ q : Nat, tableGet (s.installDevice port id).2.ports q =
              if (q : Int) = port then some id else tableGet s.ports q)
            ∧ (s.installDevice port id).2 = { s with ports := (s.installDevice port id).2.ports })
        ∧ (port < 0 ∨ 255 < port → s.installDevice port id = (.invalidState, s)))
    ∧ (∀ (a : Agent) (sh : Shape) (bus : Byte) (b : BitVec 32) (g : Config.ResetGpr),
      s.teardown = { s with handle := .tornDown }
        ∧ s.teardown.installMemory m = (.invalidState, s.teardown)
        ∧ s.teardown.installDevice port id = (.invalidState, s.teardown)
        ∧ s.teardown.interrupt a sh bus = .returned .invalidState s.teardown
        ∧ s.teardown.clearInterrupt a sh = .returned .invalidState s.teardown
        ∧ s.teardown.execute b = .returned 0 (.error .invalidState) s.teardown
        ∧ s.teardown.hostReset g = s.teardown ∧ s.teardown.teardown = s.teardown)

/-! ### Registers -/

/-- R31: a pair is its halves, writing a pair writes both, writing a half changes that half only. -/
def Obligations.PairsAreTheirHalves : Prop :=
  ∀ (s : State) (w : Word) (r : R8) (v : Byte),
    (s.af.toNat = s.main.a.toNat * 256 + s.main.f.toNat
      ∧ s.bc.toNat = s.main.b.toNat * 256 + s.main.c.toNat
      ∧ s.de.toNat = s.main.d.toNat * 256 + s.main.e.toNat
      ∧ s.hl.toNat = s.main.h.toNat * 256 + s.main.l.toNat)
    ∧ ((s.setAF w).af = w ∧ (s.setBC w).bc = w ∧ (s.setDE w).de = w ∧ (s.setHL w).hl = w)
    ∧ (Keeps (qqParts .af) s (s.setAF w) ∧ Keeps (qqParts .bc) s (s.setBC w)
      ∧ Keeps (qqParts .de) s (s.setDE w) ∧ Keeps (qqParts .hl) s (s.setHL w))
    ∧ ((s.setR8 r v).getR8 r = v ∧ Keeps [.r8 r] s (s.setR8 r v))

/-! ### Encoding -/

/-- Words written out from the `Encoding` lines of the rules decode to their instructions. -/
def Obligations.WrittenWordsDecode : Prop :=
  decode [0x41] = .ok (.ldRR .b .c, []) ∧
  decode [0xDD, 0x46, 0xFE] = .ok (.ldRIxD .b 0xFE, []) ∧
  decode [0xED, 0x4B, 0x30, 0x21] = .ok (.ldDdMem .bc 0x2130, []) ∧
  decode [0xED, 0xB0] = .ok (.ldir, []) ∧
  decode [0x86] = .ok (.addHl, []) ∧
  decode [0xED, 0x44] = .ok (.neg, []) ∧
  decode [0xDD, 0x09] = .ok (.addIxPp .bc, []) ∧
  decode [0xFD, 0xCB, 0x02, 0x16] = .ok (.rlIyD 0x02, []) ∧
  decode [0xCB, 0x7F] = .ok (.bitR 7 .a, []) ∧
  decode [0xDF] = .ok (.rst 3, []) ∧
  decode [0xED, 0x51] = .ok (.outCR .d, []) ∧
  decode [0xDD, 0x44] = .ok (.nopDd, [0x44])

/-- Every well-formed instruction, with every operand, is what its encoding decodes to, whatever follows
it. After a lone prefix something that completes no indexed instruction must follow (R118). -/
def Obligations.DecodeUndoesEncode : Prop :=
  ∀ (i : Instr) (rest : List Byte), i.wellFormed = true →
    (i.format = .xyLone →
      ∃ b tail, rest = b :: tail ∧ b ≠ 0xCB ∧ b ∉ xyDocumented) →
    decode (encode i ++ rest) = .ok (i, rest)

/-- R115: any four bytes decode to exactly one instruction, well formed, whose encoding is the bytes it
took: no two encodings share an instruction and none is dropped. A byte it did not take plays no part, but for
the one a lone prefix looks ahead at. -/
def Obligations.DecodedBytesAreTheEncoding : Prop :=
  ∀ b0 b1 b2 b3 : Byte,
    (decode4 b0 b1 b2 b3).wellFormed = true
      ∧ encode (decode4 b0 b1 b2 b3) = [b0, b1, b2, b3].take (decode4 b0 b1 b2 b3).length
      ∧ ∀ c1 c2 c3 : Byte,
        (∀ n : Nat, n = (if (decode4 b0 b1 b2 b3).format = .xyLone then 1
            else (decode4 b0 b1 b2 b3).length - 1) →
          [c1, c2, c3].take n = [b1, b2, b3].take n) →
        decode4 b0 c1 c2 c3 = decode4 b0 b1 b2 b3

/-- R120: the length, from the first byte or the first two. -/
def Obligations.LengthFromLeadingBytes : Prop :=
  ∀ b0 b1 b2 b3 : Byte,
    (decode4 b0 b1 b2 b3).length =
      if b0 = 0xCB then 2
      else if b0 = 0xED then
        if b1 ∈ [0x43, 0x4B, 0x53, 0x5B, 0x63, 0x6B, 0x73, 0x7B] then 4 else 2
      else if b0 = 0xDD ∨ b0 = 0xFD then
        if b1 = 0xCB then 4
        else if b1 ∈ [0x09, 0x19, 0x29, 0x39, 0x23, 0x2B, 0xE1, 0xE3, 0xE5, 0xE9, 0xF9] then 2
        else if b1 ∈ [0x21, 0x22, 0x2A, 0x36] then 4
        else if b1 ∈ xyDocumented then 3
        else 1
      else if b0 ∈ [0x06, 0x0E, 0x16, 0x1E, 0x26, 0x2E, 0x36, 0x3E, 0x10, 0x18, 0x20, 0x28, 0x30,
          0x38, 0xC6, 0xCE, 0xD6, 0xDE, 0xE6, 0xEE, 0xF6, 0xFE, 0xD3, 0xDB] then 2
      else if b0 ∈ [0x01, 0x11, 0x21, 0x31, 0x22, 0x2A, 0x32, 0x3A, 0xC3, 0xCD, 0xC2, 0xCA, 0xD2,
          0xDA, 0xE2, 0xEA, 0xF2, 0xFA, 0xC4, 0xCC, 0xD4, 0xDC, 0xE4, 0xEC, 0xF4, 0xFC] then 3
      else 1

/-! ### The step -/

/-- A step of a ready machine runs the instruction its bytes at PC decode to, in the state in which exactly
the reads of its fetch are made, PC is past it, R has counted its opcode fetches and the EI delay is over. The
`wz` and `wzSeq` clauses are the model's choice, log entry 4: R44 leaves WZ unspecified after any
instruction. -/
def Obligations.StepRunsTheDecodedInstruction : Prop :=
  ∀ (s : State) (i : Instr) (xs : List Config.MemAccess), s.Ready → Fetches s i →
    xs = .read s.pc :: furtherReads (s.readByte s.pc) (s.pc + 1) (i.length - 1) →
    (xs.length = i.length + if s.readByte s.pc = 0xDD ∨ s.readByte s.pc = 0xFD then 1 else 0)
    ∧ (s.mem.isReference = true → s.mem.after xs = s.mem)
    ∧ step s = exec i
      { s with
        mem := s.mem.after xs
        pc := s.pc + BitVec.ofNat 16 i.length
        rReg := if i.m1 = 1 then incR s.rReg else incR (incR s.rReg)
        eiDelay := false
        wz := Config.wzScratch s.wzSeq
        wzSeq := s.wzSeq + 1 }

/-- R12, R363: no instruction stops, on any state. -/
def Obligations.EveryInstructionCompletes : Prop :=
  ∀ (i : Instr) (s : State), ∃ t : State, exec i s = .next t

/-- The reasons a step runs no iteration: the loop's tests in their order, then the sample (R359). -/
def Obligations.StepStopsWhere : Prop :=
  ∀ s : State,
    (s.handle = .tornDown → step s = .fault .tornDown) ∧
    (s.handle = .live → s.memInstalled = false → step s = .fault .noMemory) ∧
    (s.handle = .live → s.memInstalled = true → s.halted = true → s.iff2 = false →
      step s = .fault .hung) ∧
    (s.handle = .live → s.memInstalled = true → s.hung = false →
      (s.icLock = .invalid → step s = .fault .lockInvalid)
        ∧ (s.icLock = .held .core → step s = .fault .lockDeadlock)
        ∧ (∀ k : Nat, s.icLock = .held (.poster k) → step s = .fault .lockWait)
        ∧ (s.icLock = .free → ∃ t : State, step s = .next t))

/-- THE INVARIANT IS KEPT BY EVERY STEP. -/
def Obligations.StepKeepsInvariant : Prop :=
  ∀ s t : State, s.Inv → step s = .next t → t.Inv

/-- R55, as an invariant of every interleaving of the Core and the Host's calls with posters: started in a
state with iff1 = iff2, every schedule ends in one. -/
def Obligations.SchedulesKeepInvariant : Prop :=
  ∀ (es : List Event) (u v : System), u.state.Inv → u.reacts es = some v →
    v.state.Inv ∧ v.state.iff1 = v.state.iff2

/-- An accepted interrupt and a running instruction leave the wiring, the port table and the handle alone:
only the host's operations change them. -/
def Obligations.StepsKeepTheWiring : Prop :=
  ∀ s t : State, step s = .next t →
    t.ports = s.ports ∧ t.memInstalled = s.memInstalled ∧ t.handle = s.handle
      ∧ t.icLock = s.icLock ∧ t.icBus = s.icBus
      ∧ t.icPending = (s.icPending && !(s.iff1 && !s.eiDelay))

/-! ### Interrupts -/

/-- R357, with the common part R355: a mode 1 acceptance, all it changes. -/
def Obligations.AcceptanceInModeOne : Prop :=
  ∀ s : State, s.Running → s.iff1 = true → s.eiDelay = false → s.icPending = true → s.im = .im1 →
    s.iterationCost = 13 ∧
    ∃ t : State, step s = .next t
      ∧ t = { s with
          mem := s.mem.after (pushed s s.pc)
          pc := 0x0038, sp := s.sp - 2, rReg := incR s.rReg
          iff1 := false, iff2 := false, halted := false, eiDelay := false, icPending := false }
      ∧ (s.mem.isReference = true →
        t.readByte (s.sp - 1) = hiByte s.pc ∧ t.readByte (s.sp - 2) = loByte s.pc
          ∧ KeepsMemoryBut [s.sp - 1, s.sp - 2] s t)

/-- R358, with the common part R355: a mode 2 acceptance, all it changes; the target is read at I ++ bus after
the push. -/
def Obligations.AcceptanceInModeTwo : Prop :=
  ∀ s : State, s.Running → s.iff1 = true → s.eiDelay = false → s.icPending = true → s.im = .im2 →
    s.iterationCost = 19 ∧
    ∃ (t : State) (va target : Word), va.toNat = s.iReg.toNat * 256 + s.icBus.toNat
      ∧ step s = .next t
      ∧ loByte target = answers s (pushed s s.pc) va
      ∧ hiByte target = answers s (pushed s s.pc ++ [.read va]) (va + 1)
      ∧ t = { s with
          mem := s.mem.after (pushed s s.pc ++ [.read va, .read (va + 1)])
          pc := target, sp := s.sp - 2, rReg := incR s.rReg
          iff1 := false, iff2 := false, halted := false, eiDelay := false, icPending := false }
      ∧ (s.mem.isReference = true →
        t.pc.toNat = (t.readByte (va + 1)).toNat * 256 + (t.readByte va).toNat
          ∧ t.readByte (s.sp - 1) = hiByte s.pc ∧ t.readByte (s.sp - 2) = loByte s.pc
          ∧ KeepsMemoryBut [s.sp - 1, s.sp - 2] s t)

/-- R356, with the common part R355: a mode 0 acceptance runs one instruction whose first byte is the
bus value, the others come from memory at PC, and it costs 2 T-states more; and RST 38H on the bus does what
a mode 1 acceptance does, cost included, WZ apart. The `wz` and `wzSeq` clauses are the model's choice, log
entry 4: R44 leaves WZ unspecified after any instruction. -/
def Obligations.AcceptanceInModeZero : Prop :=
  ∀ (s : State) (i : Instr),
    s.Running → s.iff1 = true → s.eiDelay = false → s.icPending = true → s.im = .im0 →
    Injects s i →
    (∃ t : State,
      t = { s with
        mem := s.mem.after (furtherReads s.icBus s.pc (i.length - 1))
        pc := s.pc + BitVec.ofNat 16 (i.length - 1)
        rReg := if i.m1 = 1 then incR s.rReg else incR (incR s.rReg)
        iff1 := false, iff2 := false, halted := false, eiDelay := false, icPending := false
        wz := Config.wzScratch s.wzSeq
        wzSeq := s.wzSeq + 1 }
      ∧ step s = exec i t
      ∧ s.iterationCost = cost i t + 2) ∧
    (s.icBus = 0xFF →
      s.iterationCost = 13 ∧
      ∃ t u : State, step s = .next t ∧ step { s with im := .im1 } = .next u
        ∧ u = { t with im := .im1, wz := s.wz, wzSeq := s.wzSeq })

/-- R354: interrupts are not accepted with iff1 = 0, with the EI delay on, or with nothing pending; and
the instruction after EI always runs. -/
def Obligations.NoAcceptanceOutsideTheCondition : Prop :=
  ∀ s : State, s.Running → (s.iff1 = false ∨ s.eiDelay = true ∨ s.icPending = false) →
    (s.halted = false →
      ∃ t : State, step s = .next t ∧ step s = exec s.fetched { s.afterFetch with eiDelay := false }
        ∧ t.icPending = s.icPending ∧ t.icBus = s.icBus)
    ∧ (s.halted = true → step s = .next { s with eiDelay := false, rReg := incR s.rReg })

/-- R412: after EI the next boundary accepts nothing, and the one after the following instruction
accepts what is pending, unless that instruction was EI or DI. -/
def Obligations.EnableTakesEffectAfterOneInstruction : Prop :=
  ∀ s t u : State, s.Ready → s.fetched = .ei → step s = .next t → step t = .next u →
    t.iff1 = true ∧ t.iff2 = true ∧ t.accepts = false ∧ t.icPending = s.icPending
      ∧ u.icPending = s.icPending ∧ step t = exec t.fetched { t.afterFetch with eiDelay := false }
      ∧ (t.fetched ≠ .ei → u.eiDelay = false)
      ∧ (t.fetched ≠ .ei → t.fetched ≠ .di → u.accepts = s.icPending)

/-- R344, R371: a halted interruptible machine that is offered no interrupt idles its budget away, 4
T-states at a time, counting R and changing nothing else. -/
def Obligations.HaltedMachineIdles : Prop :=
  ∀ (s : State) (b : BitVec 32), s.Running → s.halted = true → s.eiDelay = false →
    (s.iff1 = false ∨ s.icPending = false) → 0 < b.toInt →
    ∃ n : Nat, (n : Int) = (b.toInt + 3) / 4
      ∧ s.execute b = .returned (4 * n) (.halted (4 * n)) (s.advanceR n)

/-- R345 and the second property of R372: a hung machine runs no iteration, every call returns
(0, Hung(0)) and changes nothing; and HALT with iff2 = 0 ends the call that executes it with Hung after its
own 4 T-states, whatever budget remains. -/
def Obligations.HungMachineStaysHung : Prop :=
  ∀ (s : State) (b c : BitVec 32), s.handle = .live → s.memInstalled = true →
    (s.halted = true → s.iff2 = false →
      step s = .fault .hung ∧ s.execute b = .returned 0 (.hung 0) s) ∧
    (s.Ready → s.iff2 = false → s.readByte s.pc = 0x76 → 0 < b.toInt →
      ∃ t : State, s.execute b = .returned 4 (.hung 4) t ∧ t.pc = s.pc + 1
        ∧ t.execute c = .returned 0 (.hung 0) t)

/-! ### The controller -/

/-- R351, R352, R353: the acquire table, and post and clear on a Free lock. -/
def Obligations.LockPostAndClear : Prop :=
  ∀ (s : State) (a b : Agent) (m : Shape) (bus : Byte), s.handle = .live →
    (s.icLock = .invalid →
      s.acquire a m = .failed .invalidState ∧ s.interrupt a m bus = .returned .invalidState s
        ∧ s.clearInterrupt a m = .returned .invalidState s) ∧
    (s.icLock = .held a →
      s.acquire a .blocking = .failed .deadlock
        ∧ s.interrupt a .blocking bus = .returned .deadlock s
        ∧ s.clearInterrupt a .blocking = .returned .deadlock s) ∧
    (s.icLock = .held b →
      s.acquire a .nonBlocking = .failed .wouldBlock
        ∧ s.interrupt a .nonBlocking bus = .returned .wouldBlock s
        ∧ s.clearInterrupt a .nonBlocking = .returned .wouldBlock s) ∧
    (s.icLock = .held b → b ≠ a →
      s.acquire a .blocking = .waits ∧ s.interrupt a .blocking bus = .waits
        ∧ s.clearInterrupt a .blocking = .waits) ∧
    (s.icLock = .free →
      s.acquire a m = .won { s with icLock := .held a }
        ∧ (s.icPending = false →
          s.interrupt a m bus = .returned .ok { s with icPending := true, icBus := bus })
        ∧ (s.icPending = true → s.interrupt a m bus = .returned (.other .alreadyPending) s)
        ∧ s.clearInterrupt a m = .returned .ok { s with icPending := false }) ∧
    s.release = { s with icLock := .free }

/-- Two posters each make one call on an Idle controller, in either shape, and no clear or acceptance comes
between: in every order of their atomic steps one of them gets Ok, the other AlreadyPending, or WouldBlock if
its call does not block, and the bus value is that of the first post made, the winner's. -/
def Obligations.OneOfTwoPostersWins : Prop :=
  ∀ (s : State) (v : System) (es : List Event) (j k : Nat) (mj mk : Shape) (x y : Byte),
    s.handle = .live → s.icLock = .free → s.icPending = false → j ≠ k →
    (es.Perm [.acquire j mj, .post j x, .acquire k mk, .post k y]
      ∨ es.Perm [.acquire j mj, .post j x, .acquire k mk]
      ∨ es.Perm [.acquire j mj, .acquire k mk, .post k y]) →
    (System.idle s).reacts es = some v → v.state.icLock = .free →
    ∃ (winner loser : Nat) (shape : Shape) (bus : Byte),
      (winner = j ∧ loser = k ∧ shape = mk ∧ bus = x ∨ winner = k ∧ loser = j ∧ shape = mj ∧ bus = y)
      ∧ v.state = { s with icPending := true, icBus := bus }
      ∧ (v.replies = [(loser, .other .alreadyPending), (winner, .ok)]
        ∨ v.replies = [(winner, .ok), (loser, .wouldBlock)] ∧ shape = .nonBlocking)
      ∧ ∃ before after : List Event, es = before ++ .post winner bus :: after
        ∧ ∀ (p : Nat) (b : Byte), .post p b ∉ before

/-! ### execute -/

/-- R346, R347: one instruction costs 4 to 23 T-states, one iteration 4 to 25. -/
def Obligations.CostsAreBounded : Prop :=
  ∀ (s : State) (i : Instr),
    4 ≤ cost i s ∧ cost i s ≤ 23 ∧ 4 ≤ s.iterationCost ∧ s.iterationCost ≤ 25

/-- R341, R342, R359: how a call of execute ends, for every state of the machine and of its lock; and with a
Free lock it ends as the Core's own steps do when no poster acts between them. -/
def Obligations.ExecuteReturnsWithItsReason : Prop :=
  ∀ (s : State) (b : BitVec 32),
    (s.handle = .tornDown ∨ s.memInstalled = false →
      s.execute b = .returned 0 (.error .invalidState) s) ∧
    (s.handle = .live → s.memInstalled = true →
      (b.toInt ≤ 0 ∨ s.hung = true →
        s.execute b = .returned 0
          (if s.hung = true then .hung 0 else if s.halted = true then .halted 0 else .done) s) ∧
      (0 < b.toInt → s.hung = false →
        (s.icLock = .invalid → s.execute b = .returned 0 (.error .invalidState) s)
          ∧ (s.icLock = .held .core → s.execute b = .returned 0 (.error .deadlock) s)
          ∧ (∀ k : Nat, s.icLock = .held (.poster k) → s.execute b = .waits b.toInt 0 s)) ∧
      (s.icLock = .free →
        ∃ (n k : Nat) (stop : StopReason) (t : State), s.execute b = .returned n stop t
          ∧ (stop = .hung n ∧ t.hung = true
            ∨ stop = .halted n ∧ t.hung = false ∧ t.halted = true ∧ b.toInt ≤ n
            ∨ stop = .done ∧ t.halted = false ∧ b.toInt ≤ n)
          ∧ (System.idle s).reacts (.execute b :: List.replicate k .core)
            = some ⟨t, none, [(n, stop)], []⟩))

/-- R346: a call that exhausts its budget overshoots it by at most 24 T-states. -/
def Obligations.BudgetOvershootIsBounded : Prop :=
  ∀ (s t : State) (b : BitVec 32) (n : Nat) (stop : StopReason),
    s.execute b = .returned n stop t → 0 < b.toInt → (stop = .done ∨ stop = .halted n) →
    b.toInt ≤ n ∧ (n : Int) ≤ b.toInt + 24

/-- R372, its first property, from any ready machine with interrupts disabled: n NOPs under a budget of
4n T-states advance PC by n and consume exactly the budget. -/
def Obligations.NopsConsumeFourEach : Prop :=
  ∀ (s : State) (b : BitVec 32) (n : Nat), s.Ready → s.iff1 = false → b.toInt = 4 * (n : Int) →
    (∀ k : Nat, k < n →
      answers s ((List.range k).map fun j => .read (s.pc + BitVec.ofNat 16 j))
        (s.pc + BitVec.ofNat 16 k) = 0) →
    ∃ t : State, s.execute b = .returned (4 * n) .done t ∧ t.pc = s.pc + BitVec.ofNat 16 n

/-- R370: a budget of 1 runs exactly one iteration. -/
def Obligations.BudgetOneSingleSteps : Prop :=
  ∀ s t : State, s.Running → step s = .next t →
    s.execute 1 = t.finish s.iterationCost

/-! ### Frames over all instructions -/

/-- An instruction stores to no address but those its operands name: its accesses hold no other write, and on
the reference provider every byte elsewhere reads as before. -/
def Obligations.MemoryFrame : Prop :=
  ∀ (i : Instr) (s t : State), exec i s = .next t →
    (s.mem.isReference = true → KeepsMemoryBut (storedTo s i) s t) ∧
    ∃ xs : List Config.MemAccess, t.mem = s.mem.after xs
      ∧ ∀ (a : Word) (v : Byte), .write a v ∈ xs → a ∈ storedTo s i

/-- R37, R38: an instruction changes no bit of F outside its row of the table. -/
def Obligations.FlagFrame : Prop :=
  ∀ (i : Instr) (s t : State), exec i s = .next t →
    ∀ k : Nat, k ∉ flagBits i → t.main.f.getLsbD k = s.main.f.getLsbD k

/-- R45, R46 and their like: who writes which register of the control state. That no instruction's own
operation changes WZ or its counter is the model's choice, log entry 4: R44 leaves WZ unspecified after any
instruction, and the step gives it its free value before the operation runs. -/
def Obligations.ControlStateWriters : Prop :=
  ∀ (i : Instr) (s t : State), exec i s = .next t →
    (i ≠ .ei → i ≠ .di → t.iff2 = s.iff2) ∧
    (i ≠ .ei → i ≠ .di → i ≠ .retn → t.iff1 = s.iff1) ∧
    (i ≠ .im0 → i ≠ .im1 → i ≠ .im2 → t.im = s.im) ∧
    (i ≠ .halt → t.halted = s.halted) ∧
    (i ≠ .ei → t.eiDelay = s.eiDelay) ∧
    (i ≠ .ldIregA → t.iReg = s.iReg) ∧
    (i ≠ .ldRregA → t.rReg = s.rReg) ∧
    (i ≠ .exAfAf → i ≠ .exx → t.shadow = s.shadow) ∧
    (writesPC i = false → t.pc = s.pc) ∧
    (reachesPort i = false → t.devices = s.devices) ∧
    Part.wiring.same s t

/-! ### 8-bit loads -/

/-- R130 to R134, R141 to R143: loads of an 8-bit register. -/
def Obligations.ByteLoads : Prop :=
  ∀ (s : State) (r q : R8) (n d : Byte) (nn : Word),
    Follows (.ldRR r q) [byte233 0b01 r.code q.code] 1 4 s [.r8 r]
      (fun t => t.getR8 r = s.getR8 q) ∧
    Follows (.ldRN r n) [byte233 0b00 r.code 0b110, n] 1 7 s [.r8 r] (fun t => t.getR8 r = n) ∧
    Accesses (.ldRHl r) [byte233 0b01 r.code 0b110] 1 7 s [.r8 r] [.read s.hl]
      (fun t => t.getR8 r = s.readByte s.hl) ∧
    Accesses (.ldRIxD r d) [0xDD, byte233 0b01 r.code 0b110, d] 2 19 s [.r8 r]
      [.read (displaced s.ix d)]
      (fun t => t.getR8 r = s.readByte (displaced s.ix d)) ∧
    Accesses (.ldRIyD r d) [0xFD, byte233 0b01 r.code 0b110, d] 2 19 s [.r8 r]
      [.read (displaced s.iy d)]
      (fun t => t.getR8 r = s.readByte (displaced s.iy d)) ∧
    Accesses .ldABc [0x0A] 1 7 s [.r8 .a] [.read s.bc] (fun t => t.main.a = s.readByte s.bc) ∧
    Accesses .ldADe [0x1A] 1 7 s [.r8 .a] [.read s.de] (fun t => t.main.a = s.readByte s.de) ∧
    Accesses (.ldANn nn) [0x3A, loByte nn, hiByte nn] 1 13 s [.r8 .a] [.read nn]
      (fun t => t.main.a = s.readByte nn)

/-- R135 to R140, R144 to R146: stores of a byte. -/
def Obligations.ByteStores : Prop :=
  ∀ (s : State) (q : R8) (n d : Byte) (nn : Word),
    Accesses (.ldHlR q) [byte233 0b01 0b110 q.code] 1 7 s [] [.write s.hl (s.getR8 q)]
      (fun _ => True) ∧
    Accesses (.ldIxDR q d) [0xDD, byte233 0b01 0b110 q.code, d] 2 19 s []
      [.write (displaced s.ix d) (s.getR8 q)] (fun _ => True) ∧
    Accesses (.ldIyDR q d) [0xFD, byte233 0b01 0b110 q.code, d] 2 19 s []
      [.write (displaced s.iy d) (s.getR8 q)] (fun _ => True) ∧
    Accesses (.ldHlN n) [0x36, n] 1 10 s [] [.write s.hl n] (fun _ => True) ∧
    Accesses (.ldIxDN d n) [0xDD, 0x36, d, n] 2 19 s [] [.write (displaced s.ix d) n]
      (fun _ => True) ∧
    Accesses (.ldIyDN d n) [0xFD, 0x36, d, n] 2 19 s [] [.write (displaced s.iy d) n]
      (fun _ => True) ∧
    Accesses .ldBcA [0x02] 1 7 s [] [.write s.bc s.main.a] (fun _ => True) ∧
    Accesses .ldDeA [0x12] 1 7 s [] [.write s.de s.main.a] (fun _ => True) ∧
    Accesses (.ldNnA nn) [0x32, loByte nn, hiByte nn] 1 13 s [] [.write nn s.main.a]
      (fun _ => True)

/-- R147 to R150: loads between A and I or R; `LD A,R` reads R after its own two increments. -/
def Obligations.SystemRegisterLoads : Prop :=
  ∀ s : State,
    Follows .ldAIreg [0xED, 0x57] 2 9 s [.r8 .a, .f]
      (fun t => t.main.a = s.iReg ∧ FlagsAre s
        { s := s.iReg.getLsbD 7, z := decide (s.iReg = 0), h := false, pv := s.iff2, n := false
          c := s.flags.c } t) ∧
    Follows .ldARreg [0xED, 0x5F] 2 9 s [.r8 .a, .f]
      (fun t => t.main.a = s.rReg ∧ FlagsAre s
        { s := t.main.a.getLsbD 7, z := decide (t.main.a = 0), h := false, pv := s.iff2, n := false
          c := s.flags.c } t) ∧
    Follows .ldIregA [0xED, 0x47] 2 9 s [.iReg] (fun t => t.iReg = s.main.a) ∧
    Follows .ldRregA [0xED, 0x4F] 2 9 s [.rReg] (fun t => t.rReg = s.main.a) ∧
    (s.Ready → s.fetched = .ldARreg →
      ∃ t : State, step s = .next t
        ∧ t.main.a.toNat = s.rReg.toNat / 128 * 128 + (s.rReg.toNat % 128 + 2) % 128
        ∧ t.rReg = t.main.a) ∧
    (s.Ready → s.fetched = .ldRregA → ∃ t : State, step s = .next t ∧ t.rReg = s.main.a)

/-! ### 16-bit loads -/

/-- R151 to R153, R162 to R164: loads of a register pair from the instruction or another register. -/
def Obligations.WordLoads : Prop :=
  ∀ (s : State) (p : PairDd) (nn : Word),
    Follows (.ldDdNn p nn) [byte224 0b00 p.code 0b0001, loByte nn, hiByte nn] 1 10 s (ddParts p)
      (fun t => t.getDd p = nn) ∧
    Follows (.ldIxNn nn) [0xDD, 0x21, loByte nn, hiByte nn] 2 14 s [.ix] (fun t => t.ix = nn) ∧
    Follows (.ldIyNn nn) [0xFD, 0x21, loByte nn, hiByte nn] 2 14 s [.iy] (fun t => t.iy = nn) ∧
    Follows .ldSpHl [0xF9] 1 6 s [.sp] (fun t => t.sp = s.hl) ∧
    Follows .ldSpIx [0xDD, 0xF9] 2 10 s [.sp] (fun t => t.sp = s.ix) ∧
    Follows .ldSpIy [0xFD, 0xF9] 2 10 s [.sp] (fun t => t.sp = s.iy)

/-- R154 to R161: loads and stores of a word at an address, low byte at the lower address. -/
def Obligations.WordMemoryTransfers : Prop :=
  ∀ (s : State) (p : PairDd) (nn : Word),
    Accesses (.ldHlMem nn) [0x2A, loByte nn, hiByte nn] 1 16 s hlParts
      [.read nn, .read (nn + 1)] (fun t => WordAt s nn t.hl) ∧
    Accesses (.ldDdMem p nn) [0xED, byte224 0b01 p.code 0b1011, loByte nn, hiByte nn] 2 20 s
      (ddParts p) [.read nn, .read (nn + 1)] (fun t => WordAt s nn (t.getDd p)) ∧
    Accesses (.ldIxMem nn) [0xDD, 0x2A, loByte nn, hiByte nn] 2 20 s [.ix]
      [.read nn, .read (nn + 1)] (fun t => WordAt s nn t.ix) ∧
    Accesses (.ldIyMem nn) [0xFD, 0x2A, loByte nn, hiByte nn] 2 20 s [.iy]
      [.read nn, .read (nn + 1)] (fun t => WordAt s nn t.iy) ∧
    Accesses (.ldMemHl nn) [0x22, loByte nn, hiByte nn] 1 16 s []
      [.write nn s.main.l, .write (nn + 1) s.main.h] (fun _ => True) ∧
    Accesses (.ldMemDd p nn) [0xED, byte224 0b01 p.code 0b0011, loByte nn, hiByte nn] 2 20 s []
      [.write nn (loByte (s.getDd p)), .write (nn + 1) (hiByte (s.getDd p))] (fun _ => True) ∧
    Accesses (.ldMemIx nn) [0xDD, 0x22, loByte nn, hiByte nn] 2 20 s []
      [.write nn (loByte s.ix), .write (nn + 1) (hiByte s.ix)] (fun _ => True) ∧
    Accesses (.ldMemIy nn) [0xFD, 0x22, loByte nn, hiByte nn] 2 20 s []
      [.write nn (loByte s.iy), .write (nn + 1) (hiByte s.iy)] (fun _ => True)

/-- R165 to R170: PUSH and POP. -/
def Obligations.PushAndPop : Prop :=
  ∀ (s : State) (p : PairQq),
    Accesses (.pushQq p) [byte224 0b11 p.code 0b0101] 1 11 s [.sp] (pushed s (s.getQq p))
      (fun t => t.sp = s.sp - 2) ∧
    Accesses .pushIx [0xDD, 0xE5] 2 15 s [.sp] (pushed s s.ix) (fun t => t.sp = s.sp - 2) ∧
    Accesses .pushIy [0xFD, 0xE5] 2 15 s [.sp] (pushed s s.iy) (fun t => t.sp = s.sp - 2) ∧
    Accesses (.popQq p) [byte224 0b11 p.code 0b0001] 1 10 s (.sp :: qqParts p) (popped s)
      (fun t => WordAt s s.sp (t.getQq p) ∧ t.sp = s.sp + 2) ∧
    Accesses .popIx [0xDD, 0xE1] 2 14 s [.sp, .ix] (popped s)
      (fun t => WordAt s s.sp t.ix ∧ t.sp = s.sp + 2) ∧
    Accesses .popIy [0xFD, 0xE1] 2 14 s [.sp, .iy] (popped s)
      (fun t => WordAt s s.sp t.iy ∧ t.sp = s.sp + 2)

/-! ### Exchanges and blocks -/

/-- R171 to R176: the exchanges. -/
def Obligations.Exchanges : Prop :=
  ∀ s : State,
    Follows .exDeHl [0xEB] 1 4 s [.r8 .d, .r8 .e, .r8 .h, .r8 .l]
      (fun t => t.de = s.hl ∧ t.hl = s.de) ∧
    Follows .exAfAf [0x08] 1 4 s [.r8 .a, .f, .shadow]
      (fun t => t.main.a = s.shadow.a ∧ t.main.f = s.shadow.f
        ∧ t.shadow = { s.shadow with a := s.main.a, f := s.main.f }) ∧
    Follows .exx [0xD9] 1 4 s (.shadow :: bankParts)
      (fun t => t.bc = s.shadow.bc ∧ t.de = s.shadow.de ∧ t.hl = s.shadow.hl
        ∧ t.shadow.bc = s.bc ∧ t.shadow.de = s.de ∧ t.shadow.hl = s.hl
        ∧ t.shadow.af = s.shadow.af) ∧
    Accesses .exSpHl [0xE3] 1 19 s hlParts
      (popped s ++ [.write (s.sp + 1) s.main.h, .write s.sp s.main.l])
      (fun t => WordAt s s.sp t.hl) ∧
    Accesses .exSpIx [0xDD, 0xE3] 2 23 s [.ix]
      (popped s ++ [.write (s.sp + 1) (hiByte s.ix), .write s.sp (loByte s.ix)])
      (fun t => WordAt s s.sp t.ix) ∧
    Accesses .exSpIy [0xFD, 0xE3] 2 23 s [.iy]
      (popped s ++ [.write (s.sp + 1) (hiByte s.iy), .write s.sp (loByte s.iy)])
      (fun t => WordAt s s.sp t.iy)

/-- R177 to R180: one repetition of the block transfers. -/
def Obligations.BlockTransfers : Prop :=
  ∀ s : State,
    Accesses .ldi [0xED, 0xA0] 2 16 s (.f :: bankParts)
      [.read s.hl, .write s.de (s.readByte s.hl)]
      (fun t => t.de = s.de + 1 ∧ t.hl = s.hl + 1
        ∧ t.bc = s.bc - 1
        ∧ FlagsAre s { s.flags with h := false, n := false, pv := decide (s.bc ≠ 1) } t) ∧
    Accesses .ldir [0xED, 0xB0] 2 (if s.bc = 1 then 16 else 21) s (.pc :: .f :: bankParts)
      [.read s.hl, .write s.de (s.readByte s.hl)]
      (fun t => t.de = s.de + 1 ∧ t.hl = s.hl + 1
        ∧ t.bc = s.bc - 1 ∧ t.pc = (if s.bc = 1 then s.pc else s.pc - 2)
        ∧ FlagsAre s { s.flags with h := false, n := false, pv := decide (s.bc ≠ 1) } t) ∧
    Accesses .ldd [0xED, 0xA8] 2 16 s (.f :: bankParts)
      [.read s.hl, .write s.de (s.readByte s.hl)]
      (fun t => t.de = s.de - 1 ∧ t.hl = s.hl - 1
        ∧ t.bc = s.bc - 1
        ∧ FlagsAre s { s.flags with h := false, n := false, pv := decide (s.bc ≠ 1) } t) ∧
    Accesses .lddr [0xED, 0xB8] 2 (if s.bc = 1 then 16 else 21) s (.pc :: .f :: bankParts)
      [.read s.hl, .write s.de (s.readByte s.hl)]
      (fun t => t.de = s.de - 1 ∧ t.hl = s.hl - 1
        ∧ t.bc = s.bc - 1 ∧ t.pc = (if s.bc = 1 then s.pc else s.pc - 2)
        ∧ FlagsAre s { s.flags with h := false, n := false, pv := decide (s.bc ≠ 1) } t)

/-- R181 to R184: one repetition of the block searches; A is not changed. -/
def Obligations.BlockSearches : Prop :=
  ∀ s : State,
    Accesses .cpi [0xED, 0xA1] 2 16 s (.f :: .r8 .b :: .r8 .c :: hlParts) [.read s.hl]
      (fun t => t.hl = s.hl + 1 ∧ t.bc = s.bc - 1
        ∧ FlagsAre s { diffFlags s.main.a (s.readByte s.hl) 0 with
            pv := decide (s.bc ≠ 1), c := s.flags.c } t) ∧
    Accesses .cpir [0xED, 0xB1] 2
      (if s.bc = 1 ∨ s.main.a = s.readByte s.hl then 16 else 21) s
      (.pc :: .f :: .r8 .b :: .r8 .c :: hlParts) [.read s.hl]
      (fun t => t.hl = s.hl + 1 ∧ t.bc = s.bc - 1
        ∧ t.pc = (if s.bc = 1 ∨ s.main.a = s.readByte s.hl then s.pc else s.pc - 2)
        ∧ FlagsAre s { diffFlags s.main.a (s.readByte s.hl) 0 with
            pv := decide (s.bc ≠ 1), c := s.flags.c } t) ∧
    Accesses .cpd [0xED, 0xA9] 2 16 s (.f :: .r8 .b :: .r8 .c :: hlParts) [.read s.hl]
      (fun t => t.hl = s.hl - 1 ∧ t.bc = s.bc - 1
        ∧ FlagsAre s { diffFlags s.main.a (s.readByte s.hl) 0 with
            pv := decide (s.bc ≠ 1), c := s.flags.c } t) ∧
    Accesses .cpdr [0xED, 0xB9] 2
      (if s.bc = 1 ∨ s.main.a = s.readByte s.hl then 16 else 21) s
      (.pc :: .f :: .r8 .b :: .r8 .c :: hlParts) [.read s.hl]
      (fun t => t.hl = s.hl - 1 ∧ t.bc = s.bc - 1
        ∧ t.pc = (if s.bc = 1 ∨ s.main.a = s.readByte s.hl then s.pc else s.pc - 2)
        ∧ FlagsAre s { diffFlags s.main.a (s.readByte s.hl) 0 with
            pv := decide (s.bc ≠ 1), c := s.flags.c } t)

/-! ### 8-bit arithmetic -/

/-- R185 to R194: ADD and ADC. -/
def Obligations.ByteAdditions : Prop :=
  ∀ (s : State) (q : R8) (n d : Byte),
    Follows (.addR q) [byte233 0b10 0b000 q.code] 1 4 s [.r8 .a, .f] (SumInA s (s.getR8 q) 0) ∧
    Follows (.addN n) [0xC6, n] 1 7 s [.r8 .a, .f] (SumInA s n 0) ∧
    Accesses .addHl [0x86] 1 7 s [.r8 .a, .f] [.read s.hl] (SumInA s (s.readByte s.hl) 0) ∧
    Accesses (.addIxD d) [0xDD, 0x86, d] 2 19 s [.r8 .a, .f]
      [.read (displaced s.ix d)]
      (SumInA s (s.readByte (displaced s.ix d)) 0) ∧
    Accesses (.addIyD d) [0xFD, 0x86, d] 2 19 s [.r8 .a, .f]
      [.read (displaced s.iy d)]
      (SumInA s (s.readByte (displaced s.iy d)) 0) ∧
    Follows (.adcR q) [byte233 0b10 0b001 q.code] 1 4 s [.r8 .a, .f]
      (SumInA s (s.getR8 q) s.flags.c.toNat) ∧
    Follows (.adcN n) [0xCE, n] 1 7 s [.r8 .a, .f] (SumInA s n s.flags.c.toNat) ∧
    Accesses .adcHl [0x8E] 1 7 s [.r8 .a, .f] [.read s.hl] (SumInA s (s.readByte s.hl) s.flags.c.toNat) ∧
    Accesses (.adcIxD d) [0xDD, 0x8E, d] 2 19 s [.r8 .a, .f]
      [.read (displaced s.ix d)]
      (SumInA s (s.readByte (displaced s.ix d)) s.flags.c.toNat) ∧
    Accesses (.adcIyD d) [0xFD, 0x8E, d] 2 19 s [.r8 .a, .f]
      [.read (displaced s.iy d)]
      (SumInA s (s.readByte (displaced s.iy d)) s.flags.c.toNat)

/-- R195 to R204: SUB and SBC. -/
def Obligations.ByteSubtractions : Prop :=
  ∀ (s : State) (q : R8) (n d : Byte),
    Follows (.subR q) [byte233 0b10 0b010 q.code] 1 4 s [.r8 .a, .f] (DiffInA s (s.getR8 q) 0) ∧
    Follows (.subN n) [0xD6, n] 1 7 s [.r8 .a, .f] (DiffInA s n 0) ∧
    Accesses .subHl [0x96] 1 7 s [.r8 .a, .f] [.read s.hl] (DiffInA s (s.readByte s.hl) 0) ∧
    Accesses (.subIxD d) [0xDD, 0x96, d] 2 19 s [.r8 .a, .f]
      [.read (displaced s.ix d)]
      (DiffInA s (s.readByte (displaced s.ix d)) 0) ∧
    Accesses (.subIyD d) [0xFD, 0x96, d] 2 19 s [.r8 .a, .f]
      [.read (displaced s.iy d)]
      (DiffInA s (s.readByte (displaced s.iy d)) 0) ∧
    Follows (.sbcR q) [byte233 0b10 0b011 q.code] 1 4 s [.r8 .a, .f]
      (DiffInA s (s.getR8 q) s.flags.c.toNat) ∧
    Follows (.sbcN n) [0xDE, n] 1 7 s [.r8 .a, .f] (DiffInA s n s.flags.c.toNat) ∧
    Accesses .sbcHl [0x9E] 1 7 s [.r8 .a, .f] [.read s.hl] (DiffInA s (s.readByte s.hl) s.flags.c.toNat) ∧
    Accesses (.sbcIxD d) [0xDD, 0x9E, d] 2 19 s [.r8 .a, .f]
      [.read (displaced s.ix d)]
      (DiffInA s (s.readByte (displaced s.ix d)) s.flags.c.toNat) ∧
    Accesses (.sbcIyD d) [0xFD, 0x9E, d] 2 19 s [.r8 .a, .f]
      [.read (displaced s.iy d)]
      (DiffInA s (s.readByte (displaced s.iy d)) s.flags.c.toNat)

/-- R220 to R224 and R205 to R209: CP sets the flags of a subtraction and keeps A; AND. -/
def Obligations.ByteComparisonsAndConjunctions : Prop :=
  ∀ (s : State) (q : R8) (n d : Byte),
    Follows (.cpR q) [byte233 0b10 0b111 q.code] 1 4 s [.f]
      (FlagsAre s (diffFlags s.main.a (s.getR8 q) 0)) ∧
    Follows (.cpN n) [0xFE, n] 1 7 s [.f] (FlagsAre s (diffFlags s.main.a n 0)) ∧
    Accesses .cpHl [0xBE] 1 7 s [.f] [.read s.hl] (FlagsAre s (diffFlags s.main.a (s.readByte s.hl) 0)) ∧
    Accesses (.cpIxD d) [0xDD, 0xBE, d] 2 19 s [.f]
      [.read (displaced s.ix d)]
      (FlagsAre s (diffFlags s.main.a (s.readByte (displaced s.ix d)) 0)) ∧
    Accesses (.cpIyD d) [0xFD, 0xBE, d] 2 19 s [.f]
      [.read (displaced s.iy d)]
      (FlagsAre s (diffFlags s.main.a (s.readByte (displaced s.iy d)) 0)) ∧
    Follows (.andR q) [byte233 0b10 0b100 q.code] 1 4 s [.r8 .a, .f]
      (LogicInA s and (s.getR8 q) true) ∧
    Follows (.andN n) [0xE6, n] 1 7 s [.r8 .a, .f] (LogicInA s and n true) ∧
    Accesses .andHl [0xA6] 1 7 s [.r8 .a, .f] [.read s.hl] (LogicInA s and (s.readByte s.hl) true) ∧
    Accesses (.andIxD d) [0xDD, 0xA6, d] 2 19 s [.r8 .a, .f]
      [.read (displaced s.ix d)]
      (LogicInA s and (s.readByte (displaced s.ix d)) true) ∧
    Accesses (.andIyD d) [0xFD, 0xA6, d] 2 19 s [.r8 .a, .f]
      [.read (displaced s.iy d)]
      (LogicInA s and (s.readByte (displaced s.iy d)) true)

/-- R210 to R219: OR and XOR. -/
def Obligations.ByteDisjunctions : Prop :=
  ∀ (s : State) (q : R8) (n d : Byte),
    Follows (.orR q) [byte233 0b10 0b110 q.code] 1 4 s [.r8 .a, .f]
      (LogicInA s or (s.getR8 q) false) ∧
    Follows (.orN n) [0xF6, n] 1 7 s [.r8 .a, .f] (LogicInA s or n false) ∧
    Accesses .orHl [0xB6] 1 7 s [.r8 .a, .f] [.read s.hl] (LogicInA s or (s.readByte s.hl) false) ∧
    Accesses (.orIxD d) [0xDD, 0xB6, d] 2 19 s [.r8 .a, .f]
      [.read (displaced s.ix d)]
      (LogicInA s or (s.readByte (displaced s.ix d)) false) ∧
    Accesses (.orIyD d) [0xFD, 0xB6, d] 2 19 s [.r8 .a, .f]
      [.read (displaced s.iy d)]
      (LogicInA s or (s.readByte (displaced s.iy d)) false) ∧
    Follows (.xorR q) [byte233 0b10 0b101 q.code] 1 4 s [.r8 .a, .f]
      (LogicInA s xor (s.getR8 q) false) ∧
    Follows (.xorN n) [0xEE, n] 1 7 s [.r8 .a, .f] (LogicInA s xor n false) ∧
    Accesses .xorHl [0xAE] 1 7 s [.r8 .a, .f] [.read s.hl] (LogicInA s xor (s.readByte s.hl) false) ∧
    Accesses (.xorIxD d) [0xDD, 0xAE, d] 2 19 s [.r8 .a, .f]
      [.read (displaced s.ix d)]
      (LogicInA s xor (s.readByte (displaced s.ix d)) false) ∧
    Accesses (.xorIyD d) [0xFD, 0xAE, d] 2 19 s [.r8 .a, .f]
      [.read (displaced s.iy d)]
      (LogicInA s xor (s.readByte (displaced s.iy d)) false)

/-- R225 to R232: INC and DEC of a byte; C is kept. -/
def Obligations.ByteIncrements : Prop :=
  ∀ (s : State) (r : R8) (d : Byte),
    Follows (.incR r) [byte233 0b00 r.code 0b100] 1 4 s [.r8 r, .f]
      (fun t => t.getR8 r = s.getR8 r + 1
        ∧ FlagsAre s { sumFlags (s.getR8 r) 1 0 with c := s.flags.c } t) ∧
    Rewrites .incHl [0x34] 1 11 s [.f] s.hl (s.readByte s.hl + 1)
      (FlagsAre s { sumFlags (s.readByte s.hl) 1 0 with c := s.flags.c }) ∧
    Rewrites (.incIxD d) [0xDD, 0x34, d] 2 23 s [.f] (displaced s.ix d)
      (s.readByte (displaced s.ix d) + 1)
      (FlagsAre s { sumFlags (s.readByte (displaced s.ix d)) 1 0 with c := s.flags.c }) ∧
    Rewrites (.incIyD d) [0xFD, 0x34, d] 2 23 s [.f] (displaced s.iy d)
      (s.readByte (displaced s.iy d) + 1)
      (FlagsAre s { sumFlags (s.readByte (displaced s.iy d)) 1 0 with c := s.flags.c }) ∧
    Follows (.decR r) [byte233 0b00 r.code 0b101] 1 4 s [.r8 r, .f]
      (fun t => t.getR8 r = s.getR8 r - 1
        ∧ FlagsAre s { diffFlags (s.getR8 r) 1 0 with c := s.flags.c } t) ∧
    Rewrites .decHl [0x35] 1 11 s [.f] s.hl (s.readByte s.hl - 1)
      (FlagsAre s { diffFlags (s.readByte s.hl) 1 0 with c := s.flags.c }) ∧
    Rewrites (.decIxD d) [0xDD, 0x35, d] 2 23 s [.f] (displaced s.ix d)
      (s.readByte (displaced s.ix d) - 1)
      (FlagsAre s { diffFlags (s.readByte (displaced s.ix d)) 1 0 with c := s.flags.c }) ∧
    Rewrites (.decIyD d) [0xFD, 0x35, d] 2 23 s [.f] (displaced s.iy d)
      (s.readByte (displaced s.iy d) - 1)
      (FlagsAre s { diffFlags (s.readByte (displaced s.iy d)) 1 0 with c := s.flags.c })

/-! ### Adjustments and CPU control -/

/-- R233 to R237: DAA, from the numbers of its operation line, CPL, NEG, CCF, SCF. -/
def Obligations.AccumulatorAdjustments : Prop :=
  ∀ s : State,
    Follows .daa [0x27] 1 4 s [.r8 .a, .f] (fun t =>
      ∃ corr : Nat,
        corr = (if s.flags.h = true ∨ 9 < s.main.a.toNat % 16 then 6 else 0)
            + (if s.flags.c = true ∨ 0x99 < s.main.a.toNat then 0x60 else 0)
        ∧ t.main.a.toNat = (if s.flags.n = true then s.main.a.toNat + 256 - corr
            else s.main.a.toNat + corr) % 256
        ∧ FlagsAre s
          { s := t.main.a.getLsbD 7, z := decide (t.main.a = 0)
            h := if s.flags.n = true then decide (s.flags.h = true ∧ s.main.a.toNat % 16 < 6)
              else decide (9 < s.main.a.toNat % 16)
            pv := evenOnes t.main.a
            n := s.flags.n
            c := decide (s.flags.c = true ∨ 0x99 < s.main.a.toNat) } t) ∧
    Follows .cpl [0x2F] 1 4 s [.r8 .a, .f]
      (fun t => t.main.a.toNat = 255 - s.main.a.toNat
        ∧ FlagsAre s { s.flags with h := true, n := true } t) ∧
    Follows .neg [0xED, 0x44] 2 8 s [.r8 .a, .f]
      (fun t => t.main.a.toNat = (256 - s.main.a.toNat) % 256
        ∧ FlagsAre s (diffFlags 0 s.main.a 0) t) ∧
    Follows .ccf [0x3F] 1 4 s [.f]
      (FlagsAre s { s.flags with h := s.flags.c, n := false, c := !s.flags.c }) ∧
    Follows .scf [0x37] 1 4 s [.f]
      (FlagsAre s { s.flags with h := false, n := false, c := true })

/-- What DAA is for: ADC then DAA adds two-digit decimal numbers, SBC then DAA subtracts them, with the
carry as the hundred. -/
def Obligations.DecimalArithmetic : Prop :=
  ∀ (s : State) (x y : Nat), x < 100 → y < 100 → s.main.a = packBcd x →
    (∃ t u : State, exec (.adcN (packBcd y)) s = .next t ∧ exec .daa t = .next u
      ∧ u.main.a = packBcd ((x + y + s.flags.c.toNat) % 100)
      ∧ u.flags.c = decide (100 ≤ x + y + s.flags.c.toNat)) ∧
    ∃ t u : State, exec (.sbcN (packBcd y)) s = .next t ∧ exec .daa t = .next u
      ∧ u.main.a = packBcd ((x + 100 - y - s.flags.c.toNat) % 100)
      ∧ u.flags.c = decide (x < y + s.flags.c.toNat)

/-- R238 to R244: NOP, HALT, DI, EI, IM. -/
def Obligations.CpuControl : Prop :=
  ∀ s : State,
    Follows .nop [0x00] 1 4 s [] (fun _ => True) ∧
    Follows .halt [0x76] 1 4 s [.halted] (fun t => t.halted = true) ∧
    Follows .di [0xF3] 1 4 s [.iff1, .iff2] (fun t => t.iff1 = false ∧ t.iff2 = false) ∧
    Follows .ei [0xFB] 1 4 s [.iff1, .iff2, .eiDelay]
      (fun t => t.iff1 = true ∧ t.iff2 = true ∧ t.eiDelay = true) ∧
    Follows .im0 [0xED, 0x46] 2 8 s [.im] (fun t => t.im = .im0) ∧
    Follows .im1 [0xED, 0x56] 2 8 s [.im] (fun t => t.im = .im1) ∧
    Follows .im2 [0xED, 0x5E] 2 8 s [.im] (fun t => t.im = .im2)

/-! ### 16-bit arithmetic -/

/-- R245 to R255: the 16-bit sums and differences, and INC and DEC of a word, which write no flag. -/
def Obligations.WordArithmetic : Prop :=
  ∀ (s : State) (p : PairDd) (q : PairPp),
    Follows (.addHlSs p) [byte224 0b00 p.code 0b1001] 1 11 s (.f :: hlParts)
      (fun t => t.hl.toNat = (s.hl.toNat + (s.getDd p).toNat) % 65536
        ∧ FlagsAre s { s.flags with
            h := decide (4096 ≤ s.hl.toNat % 4096 + (s.getDd p).toNat % 4096), n := false
            c := decide (65536 ≤ s.hl.toNat + (s.getDd p).toNat) } t) ∧
    Follows (.adcHlSs p) [0xED, byte224 0b01 p.code 0b1010] 2 15 s (.f :: hlParts)
      (fun t => t.hl.toNat = (s.hl.toNat + (s.getDd p).toNat + s.flags.c.toNat) % 65536
        ∧ FlagsAre s (sumFlags16 s.hl (s.getDd p) s.flags.c.toNat) t) ∧
    Follows (.sbcHlSs p) [0xED, byte224 0b01 p.code 0b0010] 2 15 s (.f :: hlParts)
      (fun t => t.hl.toNat = (s.hl.toNat + 131072 - (s.getDd p).toNat - s.flags.c.toNat) % 65536
        ∧ FlagsAre s (diffFlags16 s.hl (s.getDd p) s.flags.c.toNat) t) ∧
    Follows (.addIxPp q) [0xDD, byte224 0b00 q.code 0b1001] 2 15 s [.f, .ix]
      (fun t => t.ix.toNat = (s.ix.toNat + (s.getPp .ix q).toNat) % 65536
        ∧ FlagsAre s { s.flags with
            h := decide (4096 ≤ s.ix.toNat % 4096 + (s.getPp .ix q).toNat % 4096), n := false
            c := decide (65536 ≤ s.ix.toNat + (s.getPp .ix q).toNat) } t) ∧
    Follows (.addIyRr q) [0xFD, byte224 0b00 q.code 0b1001] 2 15 s [.f, .iy]
      (fun t => t.iy.toNat = (s.iy.toNat + (s.getPp .iy q).toNat) % 65536
        ∧ FlagsAre s { s.flags with
            h := decide (4096 ≤ s.iy.toNat % 4096 + (s.getPp .iy q).toNat % 4096), n := false
            c := decide (65536 ≤ s.iy.toNat + (s.getPp .iy q).toNat) } t) ∧
    Follows (.incSs p) [byte224 0b00 p.code 0b0011] 1 6 s (ddParts p)
      (fun t => (t.getDd p).toNat = ((s.getDd p).toNat + 1) % 65536) ∧
    Follows .incIx [0xDD, 0x23] 2 10 s [.ix] (fun t => t.ix.toNat = (s.ix.toNat + 1) % 65536) ∧
    Follows .incIy [0xFD, 0x23] 2 10 s [.iy] (fun t => t.iy.toNat = (s.iy.toNat + 1) % 65536) ∧
    Follows (.decSs p) [byte224 0b00 p.code 0b1011] 1 6 s (ddParts p)
      (fun t => (t.getDd p).toNat = ((s.getDd p).toNat + 65535) % 65536) ∧
    Follows .decIx [0xDD, 0x2B] 2 10 s [.ix]
      (fun t => t.ix.toNat = (s.ix.toNat + 65535) % 65536) ∧
    Follows .decIy [0xFD, 0x2B] 2 10 s [.iy]
      (fun t => t.iy.toNat = (s.iy.toNat + 65535) % 65536)

/-! ### Rotates, shifts, bits -/

/-- R256 to R259: the rotates of A. -/
def Obligations.AccumulatorRotates : Prop :=
  ∀ s : State,
    Follows .rlca [0x07] 1 4 s [.r8 .a, .f]
      (fun t => ShiftedUp s.main.a t.main.a (s.main.a.getLsbD 7)
        ∧ FlagsAre s { s.flags with h := false, n := false, c := s.main.a.getLsbD 7 } t) ∧
    Follows .rla [0x17] 1 4 s [.r8 .a, .f]
      (fun t => ShiftedUp s.main.a t.main.a s.flags.c
        ∧ FlagsAre s { s.flags with h := false, n := false, c := s.main.a.getLsbD 7 } t) ∧
    Follows .rrca [0x0F] 1 4 s [.r8 .a, .f]
      (fun t => ShiftedDown s.main.a t.main.a (s.main.a.getLsbD 0)
        ∧ FlagsAre s { s.flags with h := false, n := false, c := s.main.a.getLsbD 0 } t) ∧
    Follows .rra [0x1F] 1 4 s [.r8 .a, .f]
      (fun t => ShiftedDown s.main.a t.main.a s.flags.c
        ∧ FlagsAre s { s.flags with h := false, n := false, c := s.main.a.getLsbD 0 } t)

/-- R260 to R267: RLC and RL. -/
def Obligations.RotatesLeft : Prop :=
  ShiftForms 0 .rlcR .rlcHl .rlcIxD .rlcIyD (fun old _ new => ShiftedUp old new (old.getLsbD 7))
    (·.getLsbD 7) ∧
  ShiftForms 2 .rlR .rlHl .rlIxD .rlIyD (fun old c new => ShiftedUp old new c) (·.getLsbD 7)

/-- R268 to R275: RRC and RR. -/
def Obligations.RotatesRight : Prop :=
  ShiftForms 1 .rrcR .rrcHl .rrcIxD .rrcIyD
    (fun old _ new => ShiftedDown old new (old.getLsbD 0)) (·.getLsbD 0) ∧
  ShiftForms 3 .rrR .rrHl .rrIxD .rrIyD (fun old c new => ShiftedDown old new c) (·.getLsbD 0)

/-- R276 to R287: SLA, SRA and SRL. -/
def Obligations.Shifts : Prop :=
  ShiftForms 4 .slaR .slaHl .slaIxD .slaIyD (fun old _ new => ShiftedUp old new false)
    (·.getLsbD 7) ∧
  ShiftForms 5 .sraR .sraHl .sraIxD .sraIyD
    (fun old _ new => ShiftedDown old new (old.getLsbD 7)) (·.getLsbD 0) ∧
  ShiftForms 7 .srlR .srlHl .srlIxD .srlIyD (fun old _ new => ShiftedDown old new false)
    (·.getLsbD 0)

/-- R288, R289: RLD and RRD. -/
def Obligations.DigitRotates : Prop :=
  ∀ s : State,
    (∃ v : Byte, v.toNat = (s.readByte s.hl).toNat % 16 * 16 + s.main.a.toNat % 16 ∧
      Rewrites .rld [0xED, 0x6F] 2 18 s [.r8 .a, .f] s.hl v
        (fun t => t.main.a.toNat = s.main.a.toNat / 16 * 16 + (s.readByte s.hl).toNat / 16
          ∧ FlagsAre s (arrivalFlags t.main.a s.flags) t)) ∧
    (∃ v : Byte, v.toNat = s.main.a.toNat % 16 * 16 + (s.readByte s.hl).toNat / 16 ∧
      Rewrites .rrd [0xED, 0x67] 2 18 s [.r8 .a, .f] s.hl v
        (fun t => t.main.a.toNat = s.main.a.toNat / 16 * 16 + (s.readByte s.hl).toNat % 16
          ∧ FlagsAre s (arrivalFlags t.main.a s.flags) t))

/-- R290 to R301: BIT, SET and RES. -/
def Obligations.BitOperations : Prop :=
  ∀ (s : State) (b : BitVec 3) (r : R8) (d : Byte),
    (Follows (.bitR b r) [0xCB, byte233 0b01 b r.code] 2 8 s [.f] (BitTested s b (s.getR8 r)) ∧
      Accesses (.bitHl b) [0xCB, byte233 0b01 b 0b110] 2 12 s [.f] [.read s.hl]
        (BitTested s b (s.readByte s.hl)) ∧
      Accesses (.bitIxD b d) [0xDD, 0xCB, d, byte233 0b01 b 0b110] 2 20 s [.f]
        [.read (displaced s.ix d)] (BitTested s b (s.readByte (displaced s.ix d))) ∧
      Accesses (.bitIyD b d) [0xFD, 0xCB, d, byte233 0b01 b 0b110] 2 20 s [.f]
        [.read (displaced s.iy d)] (BitTested s b (s.readByte (displaced s.iy d)))) ∧
    (Follows (.setR b r) [0xCB, byte233 0b11 b r.code] 2 8 s [.r8 r]
        (fun t => BitMade (s.getR8 r) (t.getR8 r) b true) ∧
      MakesBitAt (.setHl b) [0xCB, byte233 0b11 b 0b110] 15 s s.hl b true ∧
      MakesBitAt (.setIxD b d) [0xDD, 0xCB, d, byte233 0b11 b 0b110] 23 s (displaced s.ix d) b true ∧
      MakesBitAt (.setIyD b d) [0xFD, 0xCB, d, byte233 0b11 b 0b110] 23 s (displaced s.iy d) b
        true) ∧
    (Follows (.resR b r) [0xCB, byte233 0b10 b r.code] 2 8 s [.r8 r]
        (fun t => BitMade (s.getR8 r) (t.getR8 r) b false) ∧
      MakesBitAt (.resHl b) [0xCB, byte233 0b10 b 0b110] 15 s s.hl b false ∧
      MakesBitAt (.resIxD b d) [0xDD, 0xCB, d, byte233 0b10 b 0b110] 23 s (displaced s.ix d) b
        false ∧
      MakesBitAt (.resIyD b d) [0xFD, 0xCB, d, byte233 0b10 b 0b110] 23 s (displaced s.iy d) b false)

/-! ### Jumps, calls, returns -/

/-- R302 to R312: the jumps; at a relative one PC is already past the instruction. -/
def Obligations.Jumps : Prop :=
  ∀ (s : State) (cc : Cond) (nn : Word) (e : Byte),
    Follows (.jpNn nn) [0xC3, loByte nn, hiByte nn] 1 10 s [.pc] (fun t => t.pc = nn) ∧
    Follows (.jpCcNn cc nn) [byte233 0b11 cc.code 0b010, loByte nn, hiByte nn] 1 10 s [.pc]
      (fun t => (Taken s cc → t.pc = nn) ∧ (¬ Taken s cc → t.pc = s.pc)) ∧
    Follows .jpHl [0xE9] 1 4 s [.pc] (fun t => t.pc = s.hl) ∧
    Follows .jpIx [0xDD, 0xE9] 2 8 s [.pc] (fun t => t.pc = s.ix) ∧
    Follows .jpIy [0xFD, 0xE9] 2 8 s [.pc] (fun t => t.pc = s.iy) ∧
    Follows (.jr e) [0x18, e] 1 12 s [.pc] (fun t => t.pc = displaced s.pc e) ∧
    Follows (.jrC e) [0x38, e] 1 (if s.main.f.getLsbD 0 = true then 12 else 7) s [.pc]
      (fun t => t.pc = if s.main.f.getLsbD 0 = true then displaced s.pc e else s.pc) ∧
    Follows (.jrNc e) [0x30, e] 1 (if s.main.f.getLsbD 0 = false then 12 else 7) s [.pc]
      (fun t => t.pc = if s.main.f.getLsbD 0 = false then displaced s.pc e else s.pc) ∧
    Follows (.jrZ e) [0x28, e] 1 (if s.main.f.getLsbD 6 = true then 12 else 7) s [.pc]
      (fun t => t.pc = if s.main.f.getLsbD 6 = true then displaced s.pc e else s.pc) ∧
    Follows (.jrNz e) [0x20, e] 1 (if s.main.f.getLsbD 6 = false then 12 else 7) s [.pc]
      (fun t => t.pc = if s.main.f.getLsbD 6 = false then displaced s.pc e else s.pc) ∧
    Follows (.djnz e) [0x10, e] 1 (if s.main.b = 1 then 8 else 13) s [.r8 .b, .pc]
      (fun t => t.main.b = s.main.b - 1
        ∧ t.pc = if s.main.b = 1 then s.pc else displaced s.pc e)

/-- R313 to R319: the calls and the returns. -/
def Obligations.CallsAndReturns : Prop :=
  ∀ (s : State) (cc : Cond) (nn : Word) (k : BitVec 3),
    Accesses (.callNn nn) [0xCD, loByte nn, hiByte nn] 1 17 s [.sp, .pc] (pushed s s.pc)
      (CalledTo s nn) ∧
    (Taken s cc →
      Accesses (.callCcNn cc nn) [byte233 0b11 cc.code 0b100, loByte nn, hiByte nn] 1 17 s
        [.sp, .pc] (pushed s s.pc) (CalledTo s nn)) ∧
    (¬ Taken s cc →
      Follows (.callCcNn cc nn) [byte233 0b11 cc.code 0b100, loByte nn, hiByte nn] 1 10 s []
        (fun _ => True)) ∧
    Accesses (.rst k) [byte233 0b11 k 0b111] 1 11 s [.sp, .pc] (pushed s s.pc)
      (CalledTo s (BitVec.ofNat 16 (8 * k.toNat))) ∧
    Accesses .ret [0xC9] 1 10 s [.sp, .pc] (popped s) (ReturnedFrom s) ∧
    (Taken s cc →
      Accesses (.retCc cc) [byte233 0b11 cc.code 0b000] 1 11 s [.sp, .pc] (popped s)
        (ReturnedFrom s)) ∧
    (¬ Taken s cc →
      Follows (.retCc cc) [byte233 0b11 cc.code 0b000] 1 5 s [] (fun _ => True)) ∧
    Accesses .reti [0xED, 0x4D] 2 14 s [.sp, .pc] (popped s) (ReturnedFrom s) ∧
    Accesses .retn [0xED, 0x45] 2 14 s [.sp, .pc, .iff1] (popped s)
      (fun t => ReturnedFrom s t ∧ t.iff1 = s.iff2)

/-! ### Input and output -/

/-- R320 to R331: one byte to or from a port, and one repetition of the block instructions. That a port
holds a device's number (log entry 6: DEDUCED) and that a device answers what its host arranged (log entry 5:
DESIGN CHOICE) is the model's. -/
def Obligations.PortTransfers : Prop :=
  ∀ (s : State) (n : Byte) (r : R8),
    Follows (.inAN n) [0xDB, n] 1 11 s [.r8 .a, .devices] (fun t => ReadsPort s n t.main.a t) ∧
    Follows (.inRC r) [0xED, byte233 0b01 r.code 0b000] 2 12 s [.r8 r, .f, .devices]
      (fun t => ReadsPort s s.main.c (t.getR8 r) t
        ∧ FlagsAre s (arrivalFlags (t.getR8 r) s.flags) t) ∧
    Follows (.outNA n) [0xD3, n] 1 11 s [.devices] (WritesPort s n s.main.a) ∧
    Follows (.outCR r) [0xED, byte233 0b01 r.code 0b001] 2 12 s [.devices]
      (WritesPort s s.main.c (s.getR8 r)) ∧
    (∃ v : Byte, Accesses .ini [0xED, 0xA2] 2 16 s blockPortParts [.write s.hl v]
      (BlockInput s 1 v)) ∧
    (∃ v : Byte, Accesses .ind [0xED, 0xAA] 2 16 s blockPortParts [.write s.hl v]
      (BlockInput s (-1) v)) ∧
    Accesses .outi [0xED, 0xA3] 2 16 s blockPortParts [.read s.hl] (BlockOutput s 1) ∧
    Accesses .outd [0xED, 0xAB] 2 16 s blockPortParts [.read s.hl] (BlockOutput s (-1)) ∧
    (∃ v : Byte, Accesses .inir [0xED, 0xB2] 2 (if s.main.b = 1 then 16 else 21) s
      (.pc :: blockPortParts) [.write s.hl v]
      (fun t => BlockInput s 1 v t ∧ t.pc = if s.main.b = 1 then s.pc else s.pc - 2)) ∧
    (∃ v : Byte, Accesses .indr [0xED, 0xBA] 2 (if s.main.b = 1 then 16 else 21) s
      (.pc :: blockPortParts) [.write s.hl v]
      (fun t => BlockInput s (-1) v t ∧ t.pc = if s.main.b = 1 then s.pc else s.pc - 2)) ∧
    Accesses .otir [0xED, 0xB3] 2 (if s.main.b = 1 then 16 else 21) s (.pc :: blockPortParts)
      [.read s.hl]
      (fun t => BlockOutput s 1 t ∧ t.pc = if s.main.b = 1 then s.pc else s.pc - 2) ∧
    Accesses .otdr [0xED, 0xBB] 2 (if s.main.b = 1 then 16 else 21) s (.pc :: blockPortParts)
      [.read s.hl]
      (fun t => BlockOutput s (-1) t ∧ t.pc = if s.main.b = 1 then s.pc else s.pc - 2)

/-! ### Fallbacks -/

/-- R116 to R119: which bytes the six fallbacks are, and that each does nothing. -/
def Obligations.FallbacksDoNothing : Prop :=
  ∀ (s : State) (b1 b2 b3 : Byte) (k : BitVec 3),
    (b1 ∉ edDocumented →
      decode4 0xED b1 b2 b3 = .nopEd b1
        ∧ Follows (.nopEd b1) [0xED, b1] 2 8 s [] (fun _ => True)) ∧
    (decode4 0xCB (byte233 0b00 0b110 k) b2 b3 = .nopCb k
      ∧ Follows (.nopCb k) [0xCB, byte233 0b00 0b110 k] 2 8 s [] (fun _ => True)) ∧
    (b1 ≠ 0xCB → b1 ∉ xyDocumented →
      decode4 0xDD b1 b2 b3 = .nopDd ∧ decode4 0xFD b1 b2 b3 = .nopFd
        ∧ Follows .nopDd [0xDD] 1 4 s [] (fun _ => True)
        ∧ Follows .nopFd [0xFD] 1 4 s [] (fun _ => True)) ∧
    (b3 ∉ xyCbDocumented →
      decode4 0xDD 0xCB b2 b3 = .nopDdCb b2 b3 ∧ decode4 0xFD 0xCB b2 b3 = .nopFdCb b2 b3
        ∧ Follows (.nopDdCb b2 b3) [0xDD, 0xCB, b2, b3] 2 16 s [] (fun _ => True)
        ∧ Follows (.nopFdCb b2 b3) [0xFD, 0xCB, b2, b3] 2 16 s [] (fun _ => True))

/-! ### The Memory port -/

/-- R72 to R75: a byte access is one access of the provider, a word access two, low byte first; and what each
kind of provider the model has does with one (log entry 7, the model's choice): on the reference provider a
read changes nothing and a write that byte only. -/
def Obligations.MemoryPortAccesses : Prop :=
  ∀ (s : State) (a b w : Word) (v : Byte),
    (s.afterRead a = { s with mem := s.mem.after [.read a] }
      ∧ s.writeByte a v = { s with mem := s.mem.after [.write a v] }
      ∧ s.readByte a = answers s [] a) ∧
    (WordAt s a (s.readWord a)
      ∧ s.afterReadWord a = { s with mem := s.mem.after [.read a, .read (a + 1)] }
      ∧ s.writeWord a w =
        { s with mem := s.mem.after [.write a (loByte w), .write (a + 1) (hiByte w)] }) ∧
    (s.mem.isReference = true →
      s.afterRead a = s ∧ (s.writeByte a v).mem.isReference = true
        ∧ (s.writeByte a v).readByte b = if b = a then v else s.readByte b) ∧
    (∀ (rs : List Region) (cells : Memory) (r q : Region), s.mem = .backed rs cells →
      Decides rs r a.toNat →
      s.afterRead a = s ∧
      (∀ base : Nat, r.backing = .cells base false → s.writeByte a v = s) ∧
      (∀ u : Byte, r.backing = .absent u → s.readByte a = u ∧ s.writeByte a v = s) ∧
      (∀ base : Nat, r.backing = .cells base true → (s.writeByte a v).readByte a = v) ∧
      (∀ (base base' : Nat) (w' w'' : Bool), Decides rs q b.toNat →
        r.backing = .cells base w' → q.backing = .cells base' w'' →
        (base + (a.toNat - r.first)) % 65536 = (base' + (b.toNat - q.first)) % 65536 →
        s.readByte a = s.readByte b))
end

