-- ==== Sys2Proof/Laws/State.lean ====
section
/-! SUPPORT. One lemma for each field and each update of the state: what an update leaves alone, and what
it sets. Later proofs rewrite with these and unfold no record update. -/

namespace Sys2Proof.Machine

variable (s : State)

/-! ### setR8 -/

@[simp] theorem setR8_shadow (r : R8) (v : Byte) : (s.setR8 r v).shadow = s.shadow := by cases r <;> rfl
@[simp] theorem setR8_ix (r : R8) (v : Byte) : (s.setR8 r v).ix = s.ix := by cases r <;> rfl
@[simp] theorem setR8_iy (r : R8) (v : Byte) : (s.setR8 r v).iy = s.iy := by cases r <;> rfl
@[simp] theorem setR8_sp (r : R8) (v : Byte) : (s.setR8 r v).sp = s.sp := by cases r <;> rfl
@[simp] theorem setR8_pc (r : R8) (v : Byte) : (s.setR8 r v).pc = s.pc := by cases r <;> rfl
@[simp] theorem setR8_iReg (r : R8) (v : Byte) : (s.setR8 r v).iReg = s.iReg := by cases r <;> rfl
@[simp] theorem setR8_rReg (r : R8) (v : Byte) : (s.setR8 r v).rReg = s.rReg := by cases r <;> rfl
@[simp] theorem setR8_wz (r : R8) (v : Byte) : (s.setR8 r v).wz = s.wz := by cases r <;> rfl
@[simp] theorem setR8_iff1 (r : R8) (v : Byte) : (s.setR8 r v).iff1 = s.iff1 := by cases r <;> rfl
@[simp] theorem setR8_iff2 (r : R8) (v : Byte) : (s.setR8 r v).iff2 = s.iff2 := by cases r <;> rfl
@[simp] theorem setR8_im (r : R8) (v : Byte) : (s.setR8 r v).im = s.im := by cases r <;> rfl
@[simp] theorem setR8_halted (r : R8) (v : Byte) : (s.setR8 r v).halted = s.halted := by cases r <;> rfl
@[simp] theorem setR8_eiDelay (r : R8) (v : Byte) : (s.setR8 r v).eiDelay = s.eiDelay := by cases r <;> rfl
@[simp] theorem setR8_icPending (r : R8) (v : Byte) : (s.setR8 r v).icPending = s.icPending := by cases r <;> rfl
@[simp] theorem setR8_icBus (r : R8) (v : Byte) : (s.setR8 r v).icBus = s.icBus := by cases r <;> rfl
@[simp] theorem setR8_icLock (r : R8) (v : Byte) : (s.setR8 r v).icLock = s.icLock := by cases r <;> rfl
@[simp] theorem setR8_ports (r : R8) (v : Byte) : (s.setR8 r v).ports = s.ports := by cases r <;> rfl
@[simp] theorem setR8_devices (r : R8) (v : Byte) : (s.setR8 r v).devices = s.devices := by cases r <;> rfl
@[simp] theorem setR8_memInstalled (r : R8) (v : Byte) : (s.setR8 r v).memInstalled = s.memInstalled := by cases r <;> rfl
@[simp] theorem setR8_mem (r : R8) (v : Byte) : (s.setR8 r v).mem = s.mem := by cases r <;> rfl
@[simp] theorem setR8_handle (r : R8) (v : Byte) : (s.setR8 r v).handle = s.handle := by cases r <;> rfl
@[simp] theorem setR8_wzSeq (r : R8) (v : Byte) : (s.setR8 r v).wzSeq = s.wzSeq := by cases r <;> rfl

/-! ### setF -/

@[simp] theorem setF_shadow (v : Byte) : (s.setF v).shadow = s.shadow := rfl
@[simp] theorem setF_ix (v : Byte) : (s.setF v).ix = s.ix := rfl
@[simp] theorem setF_iy (v : Byte) : (s.setF v).iy = s.iy := rfl
@[simp] theorem setF_sp (v : Byte) : (s.setF v).sp = s.sp := rfl
@[simp] theorem setF_pc (v : Byte) : (s.setF v).pc = s.pc := rfl
@[simp] theorem setF_iReg (v : Byte) : (s.setF v).iReg = s.iReg := rfl
@[simp] theorem setF_rReg (v : Byte) : (s.setF v).rReg = s.rReg := rfl
@[simp] theorem setF_wz (v : Byte) : (s.setF v).wz = s.wz := rfl
@[simp] theorem setF_iff1 (v : Byte) : (s.setF v).iff1 = s.iff1 := rfl
@[simp] theorem setF_iff2 (v : Byte) : (s.setF v).iff2 = s.iff2 := rfl
@[simp] theorem setF_im (v : Byte) : (s.setF v).im = s.im := rfl
@[simp] theorem setF_halted (v : Byte) : (s.setF v).halted = s.halted := rfl
@[simp] theorem setF_eiDelay (v : Byte) : (s.setF v).eiDelay = s.eiDelay := rfl
@[simp] theorem setF_icPending (v : Byte) : (s.setF v).icPending = s.icPending := rfl
@[simp] theorem setF_icBus (v : Byte) : (s.setF v).icBus = s.icBus := rfl
@[simp] theorem setF_icLock (v : Byte) : (s.setF v).icLock = s.icLock := rfl
@[simp] theorem setF_ports (v : Byte) : (s.setF v).ports = s.ports := rfl
@[simp] theorem setF_devices (v : Byte) : (s.setF v).devices = s.devices := rfl
@[simp] theorem setF_memInstalled (v : Byte) : (s.setF v).memInstalled = s.memInstalled := rfl
@[simp] theorem setF_mem (v : Byte) : (s.setF v).mem = s.mem := rfl
@[simp] theorem setF_handle (v : Byte) : (s.setF v).handle = s.handle := rfl
@[simp] theorem setF_wzSeq (v : Byte) : (s.setF v).wzSeq = s.wzSeq := rfl

/-! ### setFlags -/

@[simp] theorem setFlags_shadow (g : Flags) : (s.setFlags g).shadow = s.shadow := rfl
@[simp] theorem setFlags_ix (g : Flags) : (s.setFlags g).ix = s.ix := rfl
@[simp] theorem setFlags_iy (g : Flags) : (s.setFlags g).iy = s.iy := rfl
@[simp] theorem setFlags_sp (g : Flags) : (s.setFlags g).sp = s.sp := rfl
@[simp] theorem setFlags_pc (g : Flags) : (s.setFlags g).pc = s.pc := rfl
@[simp] theorem setFlags_iReg (g : Flags) : (s.setFlags g).iReg = s.iReg := rfl
@[simp] theorem setFlags_rReg (g : Flags) : (s.setFlags g).rReg = s.rReg := rfl
@[simp] theorem setFlags_wz (g : Flags) : (s.setFlags g).wz = s.wz := rfl
@[simp] theorem setFlags_iff1 (g : Flags) : (s.setFlags g).iff1 = s.iff1 := rfl
@[simp] theorem setFlags_iff2 (g : Flags) : (s.setFlags g).iff2 = s.iff2 := rfl
@[simp] theorem setFlags_im (g : Flags) : (s.setFlags g).im = s.im := rfl
@[simp] theorem setFlags_halted (g : Flags) : (s.setFlags g).halted = s.halted := rfl
@[simp] theorem setFlags_eiDelay (g : Flags) : (s.setFlags g).eiDelay = s.eiDelay := rfl
@[simp] theorem setFlags_icPending (g : Flags) : (s.setFlags g).icPending = s.icPending := rfl
@[simp] theorem setFlags_icBus (g : Flags) : (s.setFlags g).icBus = s.icBus := rfl
@[simp] theorem setFlags_icLock (g : Flags) : (s.setFlags g).icLock = s.icLock := rfl
@[simp] theorem setFlags_ports (g : Flags) : (s.setFlags g).ports = s.ports := rfl
@[simp] theorem setFlags_devices (g : Flags) : (s.setFlags g).devices = s.devices := rfl
@[simp] theorem setFlags_memInstalled (g : Flags) : (s.setFlags g).memInstalled = s.memInstalled := rfl
@[simp] theorem setFlags_mem (g : Flags) : (s.setFlags g).mem = s.mem := rfl
@[simp] theorem setFlags_handle (g : Flags) : (s.setFlags g).handle = s.handle := rfl
@[simp] theorem setFlags_wzSeq (g : Flags) : (s.setFlags g).wzSeq = s.wzSeq := rfl

/-! ### setAF -/

@[simp] theorem setAF_shadow (w : Word) : (s.setAF w).shadow = s.shadow := rfl
@[simp] theorem setAF_ix (w : Word) : (s.setAF w).ix = s.ix := rfl
@[simp] theorem setAF_iy (w : Word) : (s.setAF w).iy = s.iy := rfl
@[simp] theorem setAF_sp (w : Word) : (s.setAF w).sp = s.sp := rfl
@[simp] theorem setAF_pc (w : Word) : (s.setAF w).pc = s.pc := rfl
@[simp] theorem setAF_iReg (w : Word) : (s.setAF w).iReg = s.iReg := rfl
@[simp] theorem setAF_rReg (w : Word) : (s.setAF w).rReg = s.rReg := rfl
@[simp] theorem setAF_wz (w : Word) : (s.setAF w).wz = s.wz := rfl
@[simp] theorem setAF_iff1 (w : Word) : (s.setAF w).iff1 = s.iff1 := rfl
@[simp] theorem setAF_iff2 (w : Word) : (s.setAF w).iff2 = s.iff2 := rfl
@[simp] theorem setAF_im (w : Word) : (s.setAF w).im = s.im := rfl
@[simp] theorem setAF_halted (w : Word) : (s.setAF w).halted = s.halted := rfl
@[simp] theorem setAF_eiDelay (w : Word) : (s.setAF w).eiDelay = s.eiDelay := rfl
@[simp] theorem setAF_icPending (w : Word) : (s.setAF w).icPending = s.icPending := rfl
@[simp] theorem setAF_icBus (w : Word) : (s.setAF w).icBus = s.icBus := rfl
@[simp] theorem setAF_icLock (w : Word) : (s.setAF w).icLock = s.icLock := rfl
@[simp] theorem setAF_ports (w : Word) : (s.setAF w).ports = s.ports := rfl
@[simp] theorem setAF_devices (w : Word) : (s.setAF w).devices = s.devices := rfl
@[simp] theorem setAF_memInstalled (w : Word) : (s.setAF w).memInstalled = s.memInstalled := rfl
@[simp] theorem setAF_mem (w : Word) : (s.setAF w).mem = s.mem := rfl
@[simp] theorem setAF_handle (w : Word) : (s.setAF w).handle = s.handle := rfl
@[simp] theorem setAF_wzSeq (w : Word) : (s.setAF w).wzSeq = s.wzSeq := rfl

/-! ### setBC -/

@[simp] theorem setBC_shadow (w : Word) : (s.setBC w).shadow = s.shadow := rfl
@[simp] theorem setBC_ix (w : Word) : (s.setBC w).ix = s.ix := rfl
@[simp] theorem setBC_iy (w : Word) : (s.setBC w).iy = s.iy := rfl
@[simp] theorem setBC_sp (w : Word) : (s.setBC w).sp = s.sp := rfl
@[simp] theorem setBC_pc (w : Word) : (s.setBC w).pc = s.pc := rfl
@[simp] theorem setBC_iReg (w : Word) : (s.setBC w).iReg = s.iReg := rfl
@[simp] theorem setBC_rReg (w : Word) : (s.setBC w).rReg = s.rReg := rfl
@[simp] theorem setBC_wz (w : Word) : (s.setBC w).wz = s.wz := rfl
@[simp] theorem setBC_iff1 (w : Word) : (s.setBC w).iff1 = s.iff1 := rfl
@[simp] theorem setBC_iff2 (w : Word) : (s.setBC w).iff2 = s.iff2 := rfl
@[simp] theorem setBC_im (w : Word) : (s.setBC w).im = s.im := rfl
@[simp] theorem setBC_halted (w : Word) : (s.setBC w).halted = s.halted := rfl
@[simp] theorem setBC_eiDelay (w : Word) : (s.setBC w).eiDelay = s.eiDelay := rfl
@[simp] theorem setBC_icPending (w : Word) : (s.setBC w).icPending = s.icPending := rfl
@[simp] theorem setBC_icBus (w : Word) : (s.setBC w).icBus = s.icBus := rfl
@[simp] theorem setBC_icLock (w : Word) : (s.setBC w).icLock = s.icLock := rfl
@[simp] theorem setBC_ports (w : Word) : (s.setBC w).ports = s.ports := rfl
@[simp] theorem setBC_devices (w : Word) : (s.setBC w).devices = s.devices := rfl
@[simp] theorem setBC_memInstalled (w : Word) : (s.setBC w).memInstalled = s.memInstalled := rfl
@[simp] theorem setBC_mem (w : Word) : (s.setBC w).mem = s.mem := rfl
@[simp] theorem setBC_handle (w : Word) : (s.setBC w).handle = s.handle := rfl
@[simp] theorem setBC_wzSeq (w : Word) : (s.setBC w).wzSeq = s.wzSeq := rfl

/-! ### setDE -/

@[simp] theorem setDE_shadow (w : Word) : (s.setDE w).shadow = s.shadow := rfl
@[simp] theorem setDE_ix (w : Word) : (s.setDE w).ix = s.ix := rfl
@[simp] theorem setDE_iy (w : Word) : (s.setDE w).iy = s.iy := rfl
@[simp] theorem setDE_sp (w : Word) : (s.setDE w).sp = s.sp := rfl
@[simp] theorem setDE_pc (w : Word) : (s.setDE w).pc = s.pc := rfl
@[simp] theorem setDE_iReg (w : Word) : (s.setDE w).iReg = s.iReg := rfl
@[simp] theorem setDE_rReg (w : Word) : (s.setDE w).rReg = s.rReg := rfl
@[simp] theorem setDE_wz (w : Word) : (s.setDE w).wz = s.wz := rfl
@[simp] theorem setDE_iff1 (w : Word) : (s.setDE w).iff1 = s.iff1 := rfl
@[simp] theorem setDE_iff2 (w : Word) : (s.setDE w).iff2 = s.iff2 := rfl
@[simp] theorem setDE_im (w : Word) : (s.setDE w).im = s.im := rfl
@[simp] theorem setDE_halted (w : Word) : (s.setDE w).halted = s.halted := rfl
@[simp] theorem setDE_eiDelay (w : Word) : (s.setDE w).eiDelay = s.eiDelay := rfl
@[simp] theorem setDE_icPending (w : Word) : (s.setDE w).icPending = s.icPending := rfl
@[simp] theorem setDE_icBus (w : Word) : (s.setDE w).icBus = s.icBus := rfl
@[simp] theorem setDE_icLock (w : Word) : (s.setDE w).icLock = s.icLock := rfl
@[simp] theorem setDE_ports (w : Word) : (s.setDE w).ports = s.ports := rfl
@[simp] theorem setDE_devices (w : Word) : (s.setDE w).devices = s.devices := rfl
@[simp] theorem setDE_memInstalled (w : Word) : (s.setDE w).memInstalled = s.memInstalled := rfl
@[simp] theorem setDE_mem (w : Word) : (s.setDE w).mem = s.mem := rfl
@[simp] theorem setDE_handle (w : Word) : (s.setDE w).handle = s.handle := rfl
@[simp] theorem setDE_wzSeq (w : Word) : (s.setDE w).wzSeq = s.wzSeq := rfl

/-! ### setHL -/

@[simp] theorem setHL_shadow (w : Word) : (s.setHL w).shadow = s.shadow := rfl
@[simp] theorem setHL_ix (w : Word) : (s.setHL w).ix = s.ix := rfl
@[simp] theorem setHL_iy (w : Word) : (s.setHL w).iy = s.iy := rfl
@[simp] theorem setHL_sp (w : Word) : (s.setHL w).sp = s.sp := rfl
@[simp] theorem setHL_pc (w : Word) : (s.setHL w).pc = s.pc := rfl
@[simp] theorem setHL_iReg (w : Word) : (s.setHL w).iReg = s.iReg := rfl
@[simp] theorem setHL_rReg (w : Word) : (s.setHL w).rReg = s.rReg := rfl
@[simp] theorem setHL_wz (w : Word) : (s.setHL w).wz = s.wz := rfl
@[simp] theorem setHL_iff1 (w : Word) : (s.setHL w).iff1 = s.iff1 := rfl
@[simp] theorem setHL_iff2 (w : Word) : (s.setHL w).iff2 = s.iff2 := rfl
@[simp] theorem setHL_im (w : Word) : (s.setHL w).im = s.im := rfl
@[simp] theorem setHL_halted (w : Word) : (s.setHL w).halted = s.halted := rfl
@[simp] theorem setHL_eiDelay (w : Word) : (s.setHL w).eiDelay = s.eiDelay := rfl
@[simp] theorem setHL_icPending (w : Word) : (s.setHL w).icPending = s.icPending := rfl
@[simp] theorem setHL_icBus (w : Word) : (s.setHL w).icBus = s.icBus := rfl
@[simp] theorem setHL_icLock (w : Word) : (s.setHL w).icLock = s.icLock := rfl
@[simp] theorem setHL_ports (w : Word) : (s.setHL w).ports = s.ports := rfl
@[simp] theorem setHL_devices (w : Word) : (s.setHL w).devices = s.devices := rfl
@[simp] theorem setHL_memInstalled (w : Word) : (s.setHL w).memInstalled = s.memInstalled := rfl
@[simp] theorem setHL_mem (w : Word) : (s.setHL w).mem = s.mem := rfl
@[simp] theorem setHL_handle (w : Word) : (s.setHL w).handle = s.handle := rfl
@[simp] theorem setHL_wzSeq (w : Word) : (s.setHL w).wzSeq = s.wzSeq := rfl

/-! ### setSP -/

@[simp] theorem setSP_main (w : Word) : (s.setSP w).main = s.main := rfl
@[simp] theorem setSP_shadow (w : Word) : (s.setSP w).shadow = s.shadow := rfl
@[simp] theorem setSP_ix (w : Word) : (s.setSP w).ix = s.ix := rfl
@[simp] theorem setSP_iy (w : Word) : (s.setSP w).iy = s.iy := rfl
@[simp] theorem setSP_pc (w : Word) : (s.setSP w).pc = s.pc := rfl
@[simp] theorem setSP_iReg (w : Word) : (s.setSP w).iReg = s.iReg := rfl
@[simp] theorem setSP_rReg (w : Word) : (s.setSP w).rReg = s.rReg := rfl
@[simp] theorem setSP_wz (w : Word) : (s.setSP w).wz = s.wz := rfl
@[simp] theorem setSP_iff1 (w : Word) : (s.setSP w).iff1 = s.iff1 := rfl
@[simp] theorem setSP_iff2 (w : Word) : (s.setSP w).iff2 = s.iff2 := rfl
@[simp] theorem setSP_im (w : Word) : (s.setSP w).im = s.im := rfl
@[simp] theorem setSP_halted (w : Word) : (s.setSP w).halted = s.halted := rfl
@[simp] theorem setSP_eiDelay (w : Word) : (s.setSP w).eiDelay = s.eiDelay := rfl
@[simp] theorem setSP_icPending (w : Word) : (s.setSP w).icPending = s.icPending := rfl
@[simp] theorem setSP_icBus (w : Word) : (s.setSP w).icBus = s.icBus := rfl
@[simp] theorem setSP_icLock (w : Word) : (s.setSP w).icLock = s.icLock := rfl
@[simp] theorem setSP_ports (w : Word) : (s.setSP w).ports = s.ports := rfl
@[simp] theorem setSP_devices (w : Word) : (s.setSP w).devices = s.devices := rfl
@[simp] theorem setSP_memInstalled (w : Word) : (s.setSP w).memInstalled = s.memInstalled := rfl
@[simp] theorem setSP_mem (w : Word) : (s.setSP w).mem = s.mem := rfl
@[simp] theorem setSP_handle (w : Word) : (s.setSP w).handle = s.handle := rfl
@[simp] theorem setSP_wzSeq (w : Word) : (s.setSP w).wzSeq = s.wzSeq := rfl

/-! ### setPC -/

@[simp] theorem setPC_main (w : Word) : (s.setPC w).main = s.main := rfl
@[simp] theorem setPC_shadow (w : Word) : (s.setPC w).shadow = s.shadow := rfl
@[simp] theorem setPC_ix (w : Word) : (s.setPC w).ix = s.ix := rfl
@[simp] theorem setPC_iy (w : Word) : (s.setPC w).iy = s.iy := rfl
@[simp] theorem setPC_sp (w : Word) : (s.setPC w).sp = s.sp := rfl
@[simp] theorem setPC_iReg (w : Word) : (s.setPC w).iReg = s.iReg := rfl
@[simp] theorem setPC_rReg (w : Word) : (s.setPC w).rReg = s.rReg := rfl
@[simp] theorem setPC_wz (w : Word) : (s.setPC w).wz = s.wz := rfl
@[simp] theorem setPC_iff1 (w : Word) : (s.setPC w).iff1 = s.iff1 := rfl
@[simp] theorem setPC_iff2 (w : Word) : (s.setPC w).iff2 = s.iff2 := rfl
@[simp] theorem setPC_im (w : Word) : (s.setPC w).im = s.im := rfl
@[simp] theorem setPC_halted (w : Word) : (s.setPC w).halted = s.halted := rfl
@[simp] theorem setPC_eiDelay (w : Word) : (s.setPC w).eiDelay = s.eiDelay := rfl
@[simp] theorem setPC_icPending (w : Word) : (s.setPC w).icPending = s.icPending := rfl
@[simp] theorem setPC_icBus (w : Word) : (s.setPC w).icBus = s.icBus := rfl
@[simp] theorem setPC_icLock (w : Word) : (s.setPC w).icLock = s.icLock := rfl
@[simp] theorem setPC_ports (w : Word) : (s.setPC w).ports = s.ports := rfl
@[simp] theorem setPC_devices (w : Word) : (s.setPC w).devices = s.devices := rfl
@[simp] theorem setPC_memInstalled (w : Word) : (s.setPC w).memInstalled = s.memInstalled := rfl
@[simp] theorem setPC_mem (w : Word) : (s.setPC w).mem = s.mem := rfl
@[simp] theorem setPC_handle (w : Word) : (s.setPC w).handle = s.handle := rfl
@[simp] theorem setPC_wzSeq (w : Word) : (s.setPC w).wzSeq = s.wzSeq := rfl

/-! ### setIdx -/

@[simp] theorem setIdx_main (x : Idx) (w : Word) : (s.setIdx x w).main = s.main := by cases x <;> rfl
@[simp] theorem setIdx_shadow (x : Idx) (w : Word) : (s.setIdx x w).shadow = s.shadow := by cases x <;> rfl
@[simp] theorem setIdx_sp (x : Idx) (w : Word) : (s.setIdx x w).sp = s.sp := by cases x <;> rfl
@[simp] theorem setIdx_pc (x : Idx) (w : Word) : (s.setIdx x w).pc = s.pc := by cases x <;> rfl
@[simp] theorem setIdx_iReg (x : Idx) (w : Word) : (s.setIdx x w).iReg = s.iReg := by cases x <;> rfl
@[simp] theorem setIdx_rReg (x : Idx) (w : Word) : (s.setIdx x w).rReg = s.rReg := by cases x <;> rfl
@[simp] theorem setIdx_wz (x : Idx) (w : Word) : (s.setIdx x w).wz = s.wz := by cases x <;> rfl
@[simp] theorem setIdx_iff1 (x : Idx) (w : Word) : (s.setIdx x w).iff1 = s.iff1 := by cases x <;> rfl
@[simp] theorem setIdx_iff2 (x : Idx) (w : Word) : (s.setIdx x w).iff2 = s.iff2 := by cases x <;> rfl
@[simp] theorem setIdx_im (x : Idx) (w : Word) : (s.setIdx x w).im = s.im := by cases x <;> rfl
@[simp] theorem setIdx_halted (x : Idx) (w : Word) : (s.setIdx x w).halted = s.halted := by cases x <;> rfl
@[simp] theorem setIdx_eiDelay (x : Idx) (w : Word) : (s.setIdx x w).eiDelay = s.eiDelay := by cases x <;> rfl
@[simp] theorem setIdx_icPending (x : Idx) (w : Word) : (s.setIdx x w).icPending = s.icPending := by cases x <;> rfl
@[simp] theorem setIdx_icBus (x : Idx) (w : Word) : (s.setIdx x w).icBus = s.icBus := by cases x <;> rfl
@[simp] theorem setIdx_icLock (x : Idx) (w : Word) : (s.setIdx x w).icLock = s.icLock := by cases x <;> rfl
@[simp] theorem setIdx_ports (x : Idx) (w : Word) : (s.setIdx x w).ports = s.ports := by cases x <;> rfl
@[simp] theorem setIdx_devices (x : Idx) (w : Word) : (s.setIdx x w).devices = s.devices := by cases x <;> rfl
@[simp] theorem setIdx_memInstalled (x : Idx) (w : Word) : (s.setIdx x w).memInstalled = s.memInstalled := by cases x <;> rfl
@[simp] theorem setIdx_mem (x : Idx) (w : Word) : (s.setIdx x w).mem = s.mem := by cases x <;> rfl
@[simp] theorem setIdx_handle (x : Idx) (w : Word) : (s.setIdx x w).handle = s.handle := by cases x <;> rfl
@[simp] theorem setIdx_wzSeq (x : Idx) (w : Word) : (s.setIdx x w).wzSeq = s.wzSeq := by cases x <;> rfl

/-! ### setDd -/

@[simp] theorem setDd_shadow (p : PairDd) (w : Word) : (s.setDd p w).shadow = s.shadow := by cases p <;> rfl
@[simp] theorem setDd_ix (p : PairDd) (w : Word) : (s.setDd p w).ix = s.ix := by cases p <;> rfl
@[simp] theorem setDd_iy (p : PairDd) (w : Word) : (s.setDd p w).iy = s.iy := by cases p <;> rfl
@[simp] theorem setDd_pc (p : PairDd) (w : Word) : (s.setDd p w).pc = s.pc := by cases p <;> rfl
@[simp] theorem setDd_iReg (p : PairDd) (w : Word) : (s.setDd p w).iReg = s.iReg := by cases p <;> rfl
@[simp] theorem setDd_rReg (p : PairDd) (w : Word) : (s.setDd p w).rReg = s.rReg := by cases p <;> rfl
@[simp] theorem setDd_wz (p : PairDd) (w : Word) : (s.setDd p w).wz = s.wz := by cases p <;> rfl
@[simp] theorem setDd_iff1 (p : PairDd) (w : Word) : (s.setDd p w).iff1 = s.iff1 := by cases p <;> rfl
@[simp] theorem setDd_iff2 (p : PairDd) (w : Word) : (s.setDd p w).iff2 = s.iff2 := by cases p <;> rfl
@[simp] theorem setDd_im (p : PairDd) (w : Word) : (s.setDd p w).im = s.im := by cases p <;> rfl
@[simp] theorem setDd_halted (p : PairDd) (w : Word) : (s.setDd p w).halted = s.halted := by cases p <;> rfl
@[simp] theorem setDd_eiDelay (p : PairDd) (w : Word) : (s.setDd p w).eiDelay = s.eiDelay := by cases p <;> rfl
@[simp] theorem setDd_icPending (p : PairDd) (w : Word) : (s.setDd p w).icPending = s.icPending := by cases p <;> rfl
@[simp] theorem setDd_icBus (p : PairDd) (w : Word) : (s.setDd p w).icBus = s.icBus := by cases p <;> rfl
@[simp] theorem setDd_icLock (p : PairDd) (w : Word) : (s.setDd p w).icLock = s.icLock := by cases p <;> rfl
@[simp] theorem setDd_ports (p : PairDd) (w : Word) : (s.setDd p w).ports = s.ports := by cases p <;> rfl
@[simp] theorem setDd_devices (p : PairDd) (w : Word) : (s.setDd p w).devices = s.devices := by cases p <;> rfl
@[simp] theorem setDd_memInstalled (p : PairDd) (w : Word) : (s.setDd p w).memInstalled = s.memInstalled := by cases p <;> rfl
@[simp] theorem setDd_mem (p : PairDd) (w : Word) : (s.setDd p w).mem = s.mem := by cases p <;> rfl
@[simp] theorem setDd_handle (p : PairDd) (w : Word) : (s.setDd p w).handle = s.handle := by cases p <;> rfl
@[simp] theorem setDd_wzSeq (p : PairDd) (w : Word) : (s.setDd p w).wzSeq = s.wzSeq := by cases p <;> rfl

/-! ### setQq -/

@[simp] theorem setQq_shadow (p : PairQq) (w : Word) : (s.setQq p w).shadow = s.shadow := by cases p <;> rfl
@[simp] theorem setQq_ix (p : PairQq) (w : Word) : (s.setQq p w).ix = s.ix := by cases p <;> rfl
@[simp] theorem setQq_iy (p : PairQq) (w : Word) : (s.setQq p w).iy = s.iy := by cases p <;> rfl
@[simp] theorem setQq_sp (p : PairQq) (w : Word) : (s.setQq p w).sp = s.sp := by cases p <;> rfl
@[simp] theorem setQq_pc (p : PairQq) (w : Word) : (s.setQq p w).pc = s.pc := by cases p <;> rfl
@[simp] theorem setQq_iReg (p : PairQq) (w : Word) : (s.setQq p w).iReg = s.iReg := by cases p <;> rfl
@[simp] theorem setQq_rReg (p : PairQq) (w : Word) : (s.setQq p w).rReg = s.rReg := by cases p <;> rfl
@[simp] theorem setQq_wz (p : PairQq) (w : Word) : (s.setQq p w).wz = s.wz := by cases p <;> rfl
@[simp] theorem setQq_iff1 (p : PairQq) (w : Word) : (s.setQq p w).iff1 = s.iff1 := by cases p <;> rfl
@[simp] theorem setQq_iff2 (p : PairQq) (w : Word) : (s.setQq p w).iff2 = s.iff2 := by cases p <;> rfl
@[simp] theorem setQq_im (p : PairQq) (w : Word) : (s.setQq p w).im = s.im := by cases p <;> rfl
@[simp] theorem setQq_halted (p : PairQq) (w : Word) : (s.setQq p w).halted = s.halted := by cases p <;> rfl
@[simp] theorem setQq_eiDelay (p : PairQq) (w : Word) : (s.setQq p w).eiDelay = s.eiDelay := by cases p <;> rfl
@[simp] theorem setQq_icPending (p : PairQq) (w : Word) : (s.setQq p w).icPending = s.icPending := by cases p <;> rfl
@[simp] theorem setQq_icBus (p : PairQq) (w : Word) : (s.setQq p w).icBus = s.icBus := by cases p <;> rfl
@[simp] theorem setQq_icLock (p : PairQq) (w : Word) : (s.setQq p w).icLock = s.icLock := by cases p <;> rfl
@[simp] theorem setQq_ports (p : PairQq) (w : Word) : (s.setQq p w).ports = s.ports := by cases p <;> rfl
@[simp] theorem setQq_devices (p : PairQq) (w : Word) : (s.setQq p w).devices = s.devices := by cases p <;> rfl
@[simp] theorem setQq_memInstalled (p : PairQq) (w : Word) : (s.setQq p w).memInstalled = s.memInstalled := by cases p <;> rfl
@[simp] theorem setQq_mem (p : PairQq) (w : Word) : (s.setQq p w).mem = s.mem := by cases p <;> rfl
@[simp] theorem setQq_handle (p : PairQq) (w : Word) : (s.setQq p w).handle = s.handle := by cases p <;> rfl
@[simp] theorem setQq_wzSeq (p : PairQq) (w : Word) : (s.setQq p w).wzSeq = s.wzSeq := by cases p <;> rfl

/-! ### afterRead -/

@[simp] theorem afterRead_main (a : Word) : (s.afterRead a).main = s.main := rfl
@[simp] theorem afterRead_shadow (a : Word) : (s.afterRead a).shadow = s.shadow := rfl
@[simp] theorem afterRead_ix (a : Word) : (s.afterRead a).ix = s.ix := rfl
@[simp] theorem afterRead_iy (a : Word) : (s.afterRead a).iy = s.iy := rfl
@[simp] theorem afterRead_sp (a : Word) : (s.afterRead a).sp = s.sp := rfl
@[simp] theorem afterRead_pc (a : Word) : (s.afterRead a).pc = s.pc := rfl
@[simp] theorem afterRead_iReg (a : Word) : (s.afterRead a).iReg = s.iReg := rfl
@[simp] theorem afterRead_rReg (a : Word) : (s.afterRead a).rReg = s.rReg := rfl
@[simp] theorem afterRead_wz (a : Word) : (s.afterRead a).wz = s.wz := rfl
@[simp] theorem afterRead_iff1 (a : Word) : (s.afterRead a).iff1 = s.iff1 := rfl
@[simp] theorem afterRead_iff2 (a : Word) : (s.afterRead a).iff2 = s.iff2 := rfl
@[simp] theorem afterRead_im (a : Word) : (s.afterRead a).im = s.im := rfl
@[simp] theorem afterRead_halted (a : Word) : (s.afterRead a).halted = s.halted := rfl
@[simp] theorem afterRead_eiDelay (a : Word) : (s.afterRead a).eiDelay = s.eiDelay := rfl
@[simp] theorem afterRead_icPending (a : Word) : (s.afterRead a).icPending = s.icPending := rfl
@[simp] theorem afterRead_icBus (a : Word) : (s.afterRead a).icBus = s.icBus := rfl
@[simp] theorem afterRead_icLock (a : Word) : (s.afterRead a).icLock = s.icLock := rfl
@[simp] theorem afterRead_ports (a : Word) : (s.afterRead a).ports = s.ports := rfl
@[simp] theorem afterRead_devices (a : Word) : (s.afterRead a).devices = s.devices := rfl
@[simp] theorem afterRead_memInstalled (a : Word) : (s.afterRead a).memInstalled = s.memInstalled := rfl
@[simp] theorem afterRead_handle (a : Word) : (s.afterRead a).handle = s.handle := rfl
@[simp] theorem afterRead_wzSeq (a : Word) : (s.afterRead a).wzSeq = s.wzSeq := rfl

/-! ### afterReadWord -/

@[simp] theorem afterReadWord_main (a : Word) : (s.afterReadWord a).main = s.main := rfl
@[simp] theorem afterReadWord_shadow (a : Word) : (s.afterReadWord a).shadow = s.shadow := rfl
@[simp] theorem afterReadWord_ix (a : Word) : (s.afterReadWord a).ix = s.ix := rfl
@[simp] theorem afterReadWord_iy (a : Word) : (s.afterReadWord a).iy = s.iy := rfl
@[simp] theorem afterReadWord_sp (a : Word) : (s.afterReadWord a).sp = s.sp := rfl
@[simp] theorem afterReadWord_pc (a : Word) : (s.afterReadWord a).pc = s.pc := rfl
@[simp] theorem afterReadWord_iReg (a : Word) : (s.afterReadWord a).iReg = s.iReg := rfl
@[simp] theorem afterReadWord_rReg (a : Word) : (s.afterReadWord a).rReg = s.rReg := rfl
@[simp] theorem afterReadWord_wz (a : Word) : (s.afterReadWord a).wz = s.wz := rfl
@[simp] theorem afterReadWord_iff1 (a : Word) : (s.afterReadWord a).iff1 = s.iff1 := rfl
@[simp] theorem afterReadWord_iff2 (a : Word) : (s.afterReadWord a).iff2 = s.iff2 := rfl
@[simp] theorem afterReadWord_im (a : Word) : (s.afterReadWord a).im = s.im := rfl
@[simp] theorem afterReadWord_halted (a : Word) : (s.afterReadWord a).halted = s.halted := rfl
@[simp] theorem afterReadWord_eiDelay (a : Word) : (s.afterReadWord a).eiDelay = s.eiDelay := rfl
@[simp] theorem afterReadWord_icPending (a : Word) : (s.afterReadWord a).icPending = s.icPending := rfl
@[simp] theorem afterReadWord_icBus (a : Word) : (s.afterReadWord a).icBus = s.icBus := rfl
@[simp] theorem afterReadWord_icLock (a : Word) : (s.afterReadWord a).icLock = s.icLock := rfl
@[simp] theorem afterReadWord_ports (a : Word) : (s.afterReadWord a).ports = s.ports := rfl
@[simp] theorem afterReadWord_devices (a : Word) : (s.afterReadWord a).devices = s.devices := rfl
@[simp] theorem afterReadWord_memInstalled (a : Word) : (s.afterReadWord a).memInstalled = s.memInstalled := rfl
@[simp] theorem afterReadWord_handle (a : Word) : (s.afterReadWord a).handle = s.handle := rfl
@[simp] theorem afterReadWord_wzSeq (a : Word) : (s.afterReadWord a).wzSeq = s.wzSeq := rfl

/-! ### afterLoad -/

@[simp] theorem afterLoad_main (p : Place) : (s.afterLoad p).main = s.main := by cases p <;> rfl
@[simp] theorem afterLoad_shadow (p : Place) : (s.afterLoad p).shadow = s.shadow := by cases p <;> rfl
@[simp] theorem afterLoad_ix (p : Place) : (s.afterLoad p).ix = s.ix := by cases p <;> rfl
@[simp] theorem afterLoad_iy (p : Place) : (s.afterLoad p).iy = s.iy := by cases p <;> rfl
@[simp] theorem afterLoad_sp (p : Place) : (s.afterLoad p).sp = s.sp := by cases p <;> rfl
@[simp] theorem afterLoad_pc (p : Place) : (s.afterLoad p).pc = s.pc := by cases p <;> rfl
@[simp] theorem afterLoad_iReg (p : Place) : (s.afterLoad p).iReg = s.iReg := by cases p <;> rfl
@[simp] theorem afterLoad_rReg (p : Place) : (s.afterLoad p).rReg = s.rReg := by cases p <;> rfl
@[simp] theorem afterLoad_wz (p : Place) : (s.afterLoad p).wz = s.wz := by cases p <;> rfl
@[simp] theorem afterLoad_iff1 (p : Place) : (s.afterLoad p).iff1 = s.iff1 := by cases p <;> rfl
@[simp] theorem afterLoad_iff2 (p : Place) : (s.afterLoad p).iff2 = s.iff2 := by cases p <;> rfl
@[simp] theorem afterLoad_im (p : Place) : (s.afterLoad p).im = s.im := by cases p <;> rfl
@[simp] theorem afterLoad_halted (p : Place) : (s.afterLoad p).halted = s.halted := by cases p <;> rfl
@[simp] theorem afterLoad_eiDelay (p : Place) : (s.afterLoad p).eiDelay = s.eiDelay := by cases p <;> rfl
@[simp] theorem afterLoad_icPending (p : Place) : (s.afterLoad p).icPending = s.icPending := by cases p <;> rfl
@[simp] theorem afterLoad_icBus (p : Place) : (s.afterLoad p).icBus = s.icBus := by cases p <;> rfl
@[simp] theorem afterLoad_icLock (p : Place) : (s.afterLoad p).icLock = s.icLock := by cases p <;> rfl
@[simp] theorem afterLoad_ports (p : Place) : (s.afterLoad p).ports = s.ports := by cases p <;> rfl
@[simp] theorem afterLoad_devices (p : Place) : (s.afterLoad p).devices = s.devices := by cases p <;> rfl
@[simp] theorem afterLoad_memInstalled (p : Place) : (s.afterLoad p).memInstalled = s.memInstalled := by cases p <;> rfl
@[simp] theorem afterLoad_handle (p : Place) : (s.afterLoad p).handle = s.handle := by cases p <;> rfl
@[simp] theorem afterLoad_wzSeq (p : Place) : (s.afterLoad p).wzSeq = s.wzSeq := by cases p <;> rfl

/-! ### writeByte -/

@[simp] theorem writeByte_main (a : Word) (v : Byte) : (s.writeByte a v).main = s.main := rfl
@[simp] theorem writeByte_shadow (a : Word) (v : Byte) : (s.writeByte a v).shadow = s.shadow := rfl
@[simp] theorem writeByte_ix (a : Word) (v : Byte) : (s.writeByte a v).ix = s.ix := rfl
@[simp] theorem writeByte_iy (a : Word) (v : Byte) : (s.writeByte a v).iy = s.iy := rfl
@[simp] theorem writeByte_sp (a : Word) (v : Byte) : (s.writeByte a v).sp = s.sp := rfl
@[simp] theorem writeByte_pc (a : Word) (v : Byte) : (s.writeByte a v).pc = s.pc := rfl
@[simp] theorem writeByte_iReg (a : Word) (v : Byte) : (s.writeByte a v).iReg = s.iReg := rfl
@[simp] theorem writeByte_rReg (a : Word) (v : Byte) : (s.writeByte a v).rReg = s.rReg := rfl
@[simp] theorem writeByte_wz (a : Word) (v : Byte) : (s.writeByte a v).wz = s.wz := rfl
@[simp] theorem writeByte_iff1 (a : Word) (v : Byte) : (s.writeByte a v).iff1 = s.iff1 := rfl
@[simp] theorem writeByte_iff2 (a : Word) (v : Byte) : (s.writeByte a v).iff2 = s.iff2 := rfl
@[simp] theorem writeByte_im (a : Word) (v : Byte) : (s.writeByte a v).im = s.im := rfl
@[simp] theorem writeByte_halted (a : Word) (v : Byte) : (s.writeByte a v).halted = s.halted := rfl
@[simp] theorem writeByte_eiDelay (a : Word) (v : Byte) : (s.writeByte a v).eiDelay = s.eiDelay := rfl
@[simp] theorem writeByte_icPending (a : Word) (v : Byte) : (s.writeByte a v).icPending = s.icPending := rfl
@[simp] theorem writeByte_icBus (a : Word) (v : Byte) : (s.writeByte a v).icBus = s.icBus := rfl
@[simp] theorem writeByte_icLock (a : Word) (v : Byte) : (s.writeByte a v).icLock = s.icLock := rfl
@[simp] theorem writeByte_ports (a : Word) (v : Byte) : (s.writeByte a v).ports = s.ports := rfl
@[simp] theorem writeByte_devices (a : Word) (v : Byte) : (s.writeByte a v).devices = s.devices := rfl
@[simp] theorem writeByte_memInstalled (a : Word) (v : Byte) : (s.writeByte a v).memInstalled = s.memInstalled := rfl
@[simp] theorem writeByte_handle (a : Word) (v : Byte) : (s.writeByte a v).handle = s.handle := rfl
@[simp] theorem writeByte_wzSeq (a : Word) (v : Byte) : (s.writeByte a v).wzSeq = s.wzSeq := rfl

/-! ### writeWord -/

@[simp] theorem writeWord_main (a w : Word) : (s.writeWord a w).main = s.main := rfl
@[simp] theorem writeWord_shadow (a w : Word) : (s.writeWord a w).shadow = s.shadow := rfl
@[simp] theorem writeWord_ix (a w : Word) : (s.writeWord a w).ix = s.ix := rfl
@[simp] theorem writeWord_iy (a w : Word) : (s.writeWord a w).iy = s.iy := rfl
@[simp] theorem writeWord_sp (a w : Word) : (s.writeWord a w).sp = s.sp := rfl
@[simp] theorem writeWord_pc (a w : Word) : (s.writeWord a w).pc = s.pc := rfl
@[simp] theorem writeWord_iReg (a w : Word) : (s.writeWord a w).iReg = s.iReg := rfl
@[simp] theorem writeWord_rReg (a w : Word) : (s.writeWord a w).rReg = s.rReg := rfl
@[simp] theorem writeWord_wz (a w : Word) : (s.writeWord a w).wz = s.wz := rfl
@[simp] theorem writeWord_iff1 (a w : Word) : (s.writeWord a w).iff1 = s.iff1 := rfl
@[simp] theorem writeWord_iff2 (a w : Word) : (s.writeWord a w).iff2 = s.iff2 := rfl
@[simp] theorem writeWord_im (a w : Word) : (s.writeWord a w).im = s.im := rfl
@[simp] theorem writeWord_halted (a w : Word) : (s.writeWord a w).halted = s.halted := rfl
@[simp] theorem writeWord_eiDelay (a w : Word) : (s.writeWord a w).eiDelay = s.eiDelay := rfl
@[simp] theorem writeWord_icPending (a w : Word) : (s.writeWord a w).icPending = s.icPending := rfl
@[simp] theorem writeWord_icBus (a w : Word) : (s.writeWord a w).icBus = s.icBus := rfl
@[simp] theorem writeWord_icLock (a w : Word) : (s.writeWord a w).icLock = s.icLock := rfl
@[simp] theorem writeWord_ports (a w : Word) : (s.writeWord a w).ports = s.ports := rfl
@[simp] theorem writeWord_devices (a w : Word) : (s.writeWord a w).devices = s.devices := rfl
@[simp] theorem writeWord_memInstalled (a w : Word) : (s.writeWord a w).memInstalled = s.memInstalled := rfl
@[simp] theorem writeWord_handle (a w : Word) : (s.writeWord a w).handle = s.handle := rfl
@[simp] theorem writeWord_wzSeq (a w : Word) : (s.writeWord a w).wzSeq = s.wzSeq := rfl

/-! ### push -/

@[simp] theorem push_main (w : Word) : (s.push w).main = s.main := rfl
@[simp] theorem push_shadow (w : Word) : (s.push w).shadow = s.shadow := rfl
@[simp] theorem push_ix (w : Word) : (s.push w).ix = s.ix := rfl
@[simp] theorem push_iy (w : Word) : (s.push w).iy = s.iy := rfl
@[simp] theorem push_pc (w : Word) : (s.push w).pc = s.pc := rfl
@[simp] theorem push_iReg (w : Word) : (s.push w).iReg = s.iReg := rfl
@[simp] theorem push_rReg (w : Word) : (s.push w).rReg = s.rReg := rfl
@[simp] theorem push_wz (w : Word) : (s.push w).wz = s.wz := rfl
@[simp] theorem push_iff1 (w : Word) : (s.push w).iff1 = s.iff1 := rfl
@[simp] theorem push_iff2 (w : Word) : (s.push w).iff2 = s.iff2 := rfl
@[simp] theorem push_im (w : Word) : (s.push w).im = s.im := rfl
@[simp] theorem push_halted (w : Word) : (s.push w).halted = s.halted := rfl
@[simp] theorem push_eiDelay (w : Word) : (s.push w).eiDelay = s.eiDelay := rfl
@[simp] theorem push_icPending (w : Word) : (s.push w).icPending = s.icPending := rfl
@[simp] theorem push_icBus (w : Word) : (s.push w).icBus = s.icBus := rfl
@[simp] theorem push_icLock (w : Word) : (s.push w).icLock = s.icLock := rfl
@[simp] theorem push_ports (w : Word) : (s.push w).ports = s.ports := rfl
@[simp] theorem push_devices (w : Word) : (s.push w).devices = s.devices := rfl
@[simp] theorem push_memInstalled (w : Word) : (s.push w).memInstalled = s.memInstalled := rfl
@[simp] theorem push_handle (w : Word) : (s.push w).handle = s.handle := rfl
@[simp] theorem push_wzSeq (w : Word) : (s.push w).wzSeq = s.wzSeq := rfl

/-! ### dropTop -/

@[simp] theorem dropTop_main : (s.dropTop).main = s.main := rfl
@[simp] theorem dropTop_shadow : (s.dropTop).shadow = s.shadow := rfl
@[simp] theorem dropTop_ix : (s.dropTop).ix = s.ix := rfl
@[simp] theorem dropTop_iy : (s.dropTop).iy = s.iy := rfl
@[simp] theorem dropTop_pc : (s.dropTop).pc = s.pc := rfl
@[simp] theorem dropTop_iReg : (s.dropTop).iReg = s.iReg := rfl
@[simp] theorem dropTop_rReg : (s.dropTop).rReg = s.rReg := rfl
@[simp] theorem dropTop_wz : (s.dropTop).wz = s.wz := rfl
@[simp] theorem dropTop_iff1 : (s.dropTop).iff1 = s.iff1 := rfl
@[simp] theorem dropTop_iff2 : (s.dropTop).iff2 = s.iff2 := rfl
@[simp] theorem dropTop_im : (s.dropTop).im = s.im := rfl
@[simp] theorem dropTop_halted : (s.dropTop).halted = s.halted := rfl
@[simp] theorem dropTop_eiDelay : (s.dropTop).eiDelay = s.eiDelay := rfl
@[simp] theorem dropTop_icPending : (s.dropTop).icPending = s.icPending := rfl
@[simp] theorem dropTop_icBus : (s.dropTop).icBus = s.icBus := rfl
@[simp] theorem dropTop_icLock : (s.dropTop).icLock = s.icLock := rfl
@[simp] theorem dropTop_ports : (s.dropTop).ports = s.ports := rfl
@[simp] theorem dropTop_devices : (s.dropTop).devices = s.devices := rfl
@[simp] theorem dropTop_memInstalled : (s.dropTop).memInstalled = s.memInstalled := rfl
@[simp] theorem dropTop_handle : (s.dropTop).handle = s.handle := rfl
@[simp] theorem dropTop_wzSeq : (s.dropTop).wzSeq = s.wzSeq := rfl

/-! ### popPC -/

@[simp] theorem popPC_main : (s.popPC).main = s.main := rfl
@[simp] theorem popPC_shadow : (s.popPC).shadow = s.shadow := rfl
@[simp] theorem popPC_ix : (s.popPC).ix = s.ix := rfl
@[simp] theorem popPC_iy : (s.popPC).iy = s.iy := rfl
@[simp] theorem popPC_iReg : (s.popPC).iReg = s.iReg := rfl
@[simp] theorem popPC_rReg : (s.popPC).rReg = s.rReg := rfl
@[simp] theorem popPC_wz : (s.popPC).wz = s.wz := rfl
@[simp] theorem popPC_iff1 : (s.popPC).iff1 = s.iff1 := rfl
@[simp] theorem popPC_iff2 : (s.popPC).iff2 = s.iff2 := rfl
@[simp] theorem popPC_im : (s.popPC).im = s.im := rfl
@[simp] theorem popPC_halted : (s.popPC).halted = s.halted := rfl
@[simp] theorem popPC_eiDelay : (s.popPC).eiDelay = s.eiDelay := rfl
@[simp] theorem popPC_icPending : (s.popPC).icPending = s.icPending := rfl
@[simp] theorem popPC_icBus : (s.popPC).icBus = s.icBus := rfl
@[simp] theorem popPC_icLock : (s.popPC).icLock = s.icLock := rfl
@[simp] theorem popPC_ports : (s.popPC).ports = s.ports := rfl
@[simp] theorem popPC_devices : (s.popPC).devices = s.devices := rfl
@[simp] theorem popPC_memInstalled : (s.popPC).memInstalled = s.memInstalled := rfl
@[simp] theorem popPC_handle : (s.popPC).handle = s.handle := rfl
@[simp] theorem popPC_wzSeq : (s.popPC).wzSeq = s.wzSeq := rfl

/-! ### setDevice -/

@[simp] theorem setDevice_main (id : Nat) (d : Device) : (s.setDevice id d).main = s.main := rfl
@[simp] theorem setDevice_shadow (id : Nat) (d : Device) : (s.setDevice id d).shadow = s.shadow := rfl
@[simp] theorem setDevice_ix (id : Nat) (d : Device) : (s.setDevice id d).ix = s.ix := rfl
@[simp] theorem setDevice_iy (id : Nat) (d : Device) : (s.setDevice id d).iy = s.iy := rfl
@[simp] theorem setDevice_sp (id : Nat) (d : Device) : (s.setDevice id d).sp = s.sp := rfl
@[simp] theorem setDevice_pc (id : Nat) (d : Device) : (s.setDevice id d).pc = s.pc := rfl
@[simp] theorem setDevice_iReg (id : Nat) (d : Device) : (s.setDevice id d).iReg = s.iReg := rfl
@[simp] theorem setDevice_rReg (id : Nat) (d : Device) : (s.setDevice id d).rReg = s.rReg := rfl
@[simp] theorem setDevice_wz (id : Nat) (d : Device) : (s.setDevice id d).wz = s.wz := rfl
@[simp] theorem setDevice_iff1 (id : Nat) (d : Device) : (s.setDevice id d).iff1 = s.iff1 := rfl
@[simp] theorem setDevice_iff2 (id : Nat) (d : Device) : (s.setDevice id d).iff2 = s.iff2 := rfl
@[simp] theorem setDevice_im (id : Nat) (d : Device) : (s.setDevice id d).im = s.im := rfl
@[simp] theorem setDevice_halted (id : Nat) (d : Device) : (s.setDevice id d).halted = s.halted := rfl
@[simp] theorem setDevice_eiDelay (id : Nat) (d : Device) : (s.setDevice id d).eiDelay = s.eiDelay := rfl
@[simp] theorem setDevice_icPending (id : Nat) (d : Device) : (s.setDevice id d).icPending = s.icPending := rfl
@[simp] theorem setDevice_icBus (id : Nat) (d : Device) : (s.setDevice id d).icBus = s.icBus := rfl
@[simp] theorem setDevice_icLock (id : Nat) (d : Device) : (s.setDevice id d).icLock = s.icLock := rfl
@[simp] theorem setDevice_ports (id : Nat) (d : Device) : (s.setDevice id d).ports = s.ports := rfl
@[simp] theorem setDevice_memInstalled (id : Nat) (d : Device) : (s.setDevice id d).memInstalled = s.memInstalled := rfl
@[simp] theorem setDevice_mem (id : Nat) (d : Device) : (s.setDevice id d).mem = s.mem := rfl
@[simp] theorem setDevice_handle (id : Nat) (d : Device) : (s.setDevice id d).handle = s.handle := rfl
@[simp] theorem setDevice_wzSeq (id : Nat) (d : Device) : (s.setDevice id d).wzSeq = s.wzSeq := rfl

/-! ### afterIoRead -/

@[simp] theorem afterIoRead_main (p : Byte) : (s.afterIoRead p).main = s.main := by unfold State.afterIoRead; split <;> rfl
@[simp] theorem afterIoRead_shadow (p : Byte) : (s.afterIoRead p).shadow = s.shadow := by unfold State.afterIoRead; split <;> rfl
@[simp] theorem afterIoRead_ix (p : Byte) : (s.afterIoRead p).ix = s.ix := by unfold State.afterIoRead; split <;> rfl
@[simp] theorem afterIoRead_iy (p : Byte) : (s.afterIoRead p).iy = s.iy := by unfold State.afterIoRead; split <;> rfl
@[simp] theorem afterIoRead_sp (p : Byte) : (s.afterIoRead p).sp = s.sp := by unfold State.afterIoRead; split <;> rfl
@[simp] theorem afterIoRead_pc (p : Byte) : (s.afterIoRead p).pc = s.pc := by unfold State.afterIoRead; split <;> rfl
@[simp] theorem afterIoRead_iReg (p : Byte) : (s.afterIoRead p).iReg = s.iReg := by unfold State.afterIoRead; split <;> rfl
@[simp] theorem afterIoRead_rReg (p : Byte) : (s.afterIoRead p).rReg = s.rReg := by unfold State.afterIoRead; split <;> rfl
@[simp] theorem afterIoRead_wz (p : Byte) : (s.afterIoRead p).wz = s.wz := by unfold State.afterIoRead; split <;> rfl
@[simp] theorem afterIoRead_iff1 (p : Byte) : (s.afterIoRead p).iff1 = s.iff1 := by unfold State.afterIoRead; split <;> rfl
@[simp] theorem afterIoRead_iff2 (p : Byte) : (s.afterIoRead p).iff2 = s.iff2 := by unfold State.afterIoRead; split <;> rfl
@[simp] theorem afterIoRead_im (p : Byte) : (s.afterIoRead p).im = s.im := by unfold State.afterIoRead; split <;> rfl
@[simp] theorem afterIoRead_halted (p : Byte) : (s.afterIoRead p).halted = s.halted := by unfold State.afterIoRead; split <;> rfl
@[simp] theorem afterIoRead_eiDelay (p : Byte) : (s.afterIoRead p).eiDelay = s.eiDelay := by unfold State.afterIoRead; split <;> rfl
@[simp] theorem afterIoRead_icPending (p : Byte) : (s.afterIoRead p).icPending = s.icPending := by unfold State.afterIoRead; split <;> rfl
@[simp] theorem afterIoRead_icBus (p : Byte) : (s.afterIoRead p).icBus = s.icBus := by unfold State.afterIoRead; split <;> rfl
@[simp] theorem afterIoRead_icLock (p : Byte) : (s.afterIoRead p).icLock = s.icLock := by unfold State.afterIoRead; split <;> rfl
@[simp] theorem afterIoRead_ports (p : Byte) : (s.afterIoRead p).ports = s.ports := by unfold State.afterIoRead; split <;> rfl
@[simp] theorem afterIoRead_memInstalled (p : Byte) : (s.afterIoRead p).memInstalled = s.memInstalled := by unfold State.afterIoRead; split <;> rfl
@[simp] theorem afterIoRead_mem (p : Byte) : (s.afterIoRead p).mem = s.mem := by unfold State.afterIoRead; split <;> rfl
@[simp] theorem afterIoRead_handle (p : Byte) : (s.afterIoRead p).handle = s.handle := by unfold State.afterIoRead; split <;> rfl
@[simp] theorem afterIoRead_wzSeq (p : Byte) : (s.afterIoRead p).wzSeq = s.wzSeq := by unfold State.afterIoRead; split <;> rfl

/-! ### ioWrite -/

@[simp] theorem ioWrite_main (p v : Byte) : (s.ioWrite p v).main = s.main := by unfold State.ioWrite; split <;> rfl
@[simp] theorem ioWrite_shadow (p v : Byte) : (s.ioWrite p v).shadow = s.shadow := by unfold State.ioWrite; split <;> rfl
@[simp] theorem ioWrite_ix (p v : Byte) : (s.ioWrite p v).ix = s.ix := by unfold State.ioWrite; split <;> rfl
@[simp] theorem ioWrite_iy (p v : Byte) : (s.ioWrite p v).iy = s.iy := by unfold State.ioWrite; split <;> rfl
@[simp] theorem ioWrite_sp (p v : Byte) : (s.ioWrite p v).sp = s.sp := by unfold State.ioWrite; split <;> rfl
@[simp] theorem ioWrite_pc (p v : Byte) : (s.ioWrite p v).pc = s.pc := by unfold State.ioWrite; split <;> rfl
@[simp] theorem ioWrite_iReg (p v : Byte) : (s.ioWrite p v).iReg = s.iReg := by unfold State.ioWrite; split <;> rfl
@[simp] theorem ioWrite_rReg (p v : Byte) : (s.ioWrite p v).rReg = s.rReg := by unfold State.ioWrite; split <;> rfl
@[simp] theorem ioWrite_wz (p v : Byte) : (s.ioWrite p v).wz = s.wz := by unfold State.ioWrite; split <;> rfl
@[simp] theorem ioWrite_iff1 (p v : Byte) : (s.ioWrite p v).iff1 = s.iff1 := by unfold State.ioWrite; split <;> rfl
@[simp] theorem ioWrite_iff2 (p v : Byte) : (s.ioWrite p v).iff2 = s.iff2 := by unfold State.ioWrite; split <;> rfl
@[simp] theorem ioWrite_im (p v : Byte) : (s.ioWrite p v).im = s.im := by unfold State.ioWrite; split <;> rfl
@[simp] theorem ioWrite_halted (p v : Byte) : (s.ioWrite p v).halted = s.halted := by unfold State.ioWrite; split <;> rfl
@[simp] theorem ioWrite_eiDelay (p v : Byte) : (s.ioWrite p v).eiDelay = s.eiDelay := by unfold State.ioWrite; split <;> rfl
@[simp] theorem ioWrite_icPending (p v : Byte) : (s.ioWrite p v).icPending = s.icPending := by unfold State.ioWrite; split <;> rfl
@[simp] theorem ioWrite_icBus (p v : Byte) : (s.ioWrite p v).icBus = s.icBus := by unfold State.ioWrite; split <;> rfl
@[simp] theorem ioWrite_icLock (p v : Byte) : (s.ioWrite p v).icLock = s.icLock := by unfold State.ioWrite; split <;> rfl
@[simp] theorem ioWrite_ports (p v : Byte) : (s.ioWrite p v).ports = s.ports := by unfold State.ioWrite; split <;> rfl
@[simp] theorem ioWrite_memInstalled (p v : Byte) : (s.ioWrite p v).memInstalled = s.memInstalled := by unfold State.ioWrite; split <;> rfl
@[simp] theorem ioWrite_mem (p v : Byte) : (s.ioWrite p v).mem = s.mem := by unfold State.ioWrite; split <;> rfl
@[simp] theorem ioWrite_handle (p v : Byte) : (s.ioWrite p v).handle = s.handle := by unfold State.ioWrite; split <;> rfl
@[simp] theorem ioWrite_wzSeq (p v : Byte) : (s.ioWrite p v).wzSeq = s.wzSeq := by unfold State.ioWrite; split <;> rfl

/-! ### repeatIf -/

@[simp] theorem repeatIf_main (b : Bool) : (s.repeatIf b).main = s.main := by unfold State.repeatIf; split <;> rfl
@[simp] theorem repeatIf_shadow (b : Bool) : (s.repeatIf b).shadow = s.shadow := by unfold State.repeatIf; split <;> rfl
@[simp] theorem repeatIf_ix (b : Bool) : (s.repeatIf b).ix = s.ix := by unfold State.repeatIf; split <;> rfl
@[simp] theorem repeatIf_iy (b : Bool) : (s.repeatIf b).iy = s.iy := by unfold State.repeatIf; split <;> rfl
@[simp] theorem repeatIf_sp (b : Bool) : (s.repeatIf b).sp = s.sp := by unfold State.repeatIf; split <;> rfl
@[simp] theorem repeatIf_iReg (b : Bool) : (s.repeatIf b).iReg = s.iReg := by unfold State.repeatIf; split <;> rfl
@[simp] theorem repeatIf_rReg (b : Bool) : (s.repeatIf b).rReg = s.rReg := by unfold State.repeatIf; split <;> rfl
@[simp] theorem repeatIf_wz (b : Bool) : (s.repeatIf b).wz = s.wz := by unfold State.repeatIf; split <;> rfl
@[simp] theorem repeatIf_iff1 (b : Bool) : (s.repeatIf b).iff1 = s.iff1 := by unfold State.repeatIf; split <;> rfl
@[simp] theorem repeatIf_iff2 (b : Bool) : (s.repeatIf b).iff2 = s.iff2 := by unfold State.repeatIf; split <;> rfl
@[simp] theorem repeatIf_im (b : Bool) : (s.repeatIf b).im = s.im := by unfold State.repeatIf; split <;> rfl
@[simp] theorem repeatIf_halted (b : Bool) : (s.repeatIf b).halted = s.halted := by unfold State.repeatIf; split <;> rfl
@[simp] theorem repeatIf_eiDelay (b : Bool) : (s.repeatIf b).eiDelay = s.eiDelay := by unfold State.repeatIf; split <;> rfl
@[simp] theorem repeatIf_icPending (b : Bool) : (s.repeatIf b).icPending = s.icPending := by unfold State.repeatIf; split <;> rfl
@[simp] theorem repeatIf_icBus (b : Bool) : (s.repeatIf b).icBus = s.icBus := by unfold State.repeatIf; split <;> rfl
@[simp] theorem repeatIf_icLock (b : Bool) : (s.repeatIf b).icLock = s.icLock := by unfold State.repeatIf; split <;> rfl
@[simp] theorem repeatIf_ports (b : Bool) : (s.repeatIf b).ports = s.ports := by unfold State.repeatIf; split <;> rfl
@[simp] theorem repeatIf_devices (b : Bool) : (s.repeatIf b).devices = s.devices := by unfold State.repeatIf; split <;> rfl
@[simp] theorem repeatIf_memInstalled (b : Bool) : (s.repeatIf b).memInstalled = s.memInstalled := by unfold State.repeatIf; split <;> rfl
@[simp] theorem repeatIf_mem (b : Bool) : (s.repeatIf b).mem = s.mem := by unfold State.repeatIf; split <;> rfl
@[simp] theorem repeatIf_handle (b : Bool) : (s.repeatIf b).handle = s.handle := by unfold State.repeatIf; split <;> rfl
@[simp] theorem repeatIf_wzSeq (b : Bool) : (s.repeatIf b).wzSeq = s.wzSeq := by unfold State.repeatIf; split <;> rfl

/-! ### acceptCommon -/

@[simp] theorem acceptCommon_main : (s.acceptCommon).main = s.main := rfl
@[simp] theorem acceptCommon_shadow : (s.acceptCommon).shadow = s.shadow := rfl
@[simp] theorem acceptCommon_ix : (s.acceptCommon).ix = s.ix := rfl
@[simp] theorem acceptCommon_iy : (s.acceptCommon).iy = s.iy := rfl
@[simp] theorem acceptCommon_sp : (s.acceptCommon).sp = s.sp := rfl
@[simp] theorem acceptCommon_pc : (s.acceptCommon).pc = s.pc := rfl
@[simp] theorem acceptCommon_iReg : (s.acceptCommon).iReg = s.iReg := rfl
@[simp] theorem acceptCommon_rReg : (s.acceptCommon).rReg = s.rReg := rfl
@[simp] theorem acceptCommon_wz : (s.acceptCommon).wz = s.wz := rfl
@[simp] theorem acceptCommon_im : (s.acceptCommon).im = s.im := rfl
@[simp] theorem acceptCommon_eiDelay : (s.acceptCommon).eiDelay = s.eiDelay := rfl
@[simp] theorem acceptCommon_icBus : (s.acceptCommon).icBus = s.icBus := rfl
@[simp] theorem acceptCommon_icLock : (s.acceptCommon).icLock = s.icLock := rfl
@[simp] theorem acceptCommon_ports : (s.acceptCommon).ports = s.ports := rfl
@[simp] theorem acceptCommon_devices : (s.acceptCommon).devices = s.devices := rfl
@[simp] theorem acceptCommon_memInstalled : (s.acceptCommon).memInstalled = s.memInstalled := rfl
@[simp] theorem acceptCommon_mem : (s.acceptCommon).mem = s.mem := rfl
@[simp] theorem acceptCommon_handle : (s.acceptCommon).handle = s.handle := rfl
@[simp] theorem acceptCommon_wzSeq : (s.acceptCommon).wzSeq = s.wzSeq := rfl

/-! ### freshWZ -/

@[simp] theorem freshWZ_main : (s.freshWZ).main = s.main := rfl
@[simp] theorem freshWZ_shadow : (s.freshWZ).shadow = s.shadow := rfl
@[simp] theorem freshWZ_ix : (s.freshWZ).ix = s.ix := rfl
@[simp] theorem freshWZ_iy : (s.freshWZ).iy = s.iy := rfl
@[simp] theorem freshWZ_sp : (s.freshWZ).sp = s.sp := rfl
@[simp] theorem freshWZ_pc : (s.freshWZ).pc = s.pc := rfl
@[simp] theorem freshWZ_iReg : (s.freshWZ).iReg = s.iReg := rfl
@[simp] theorem freshWZ_rReg : (s.freshWZ).rReg = s.rReg := rfl
@[simp] theorem freshWZ_iff1 : (s.freshWZ).iff1 = s.iff1 := rfl
@[simp] theorem freshWZ_iff2 : (s.freshWZ).iff2 = s.iff2 := rfl
@[simp] theorem freshWZ_im : (s.freshWZ).im = s.im := rfl
@[simp] theorem freshWZ_halted : (s.freshWZ).halted = s.halted := rfl
@[simp] theorem freshWZ_eiDelay : (s.freshWZ).eiDelay = s.eiDelay := rfl
@[simp] theorem freshWZ_icPending : (s.freshWZ).icPending = s.icPending := rfl
@[simp] theorem freshWZ_icBus : (s.freshWZ).icBus = s.icBus := rfl
@[simp] theorem freshWZ_icLock : (s.freshWZ).icLock = s.icLock := rfl
@[simp] theorem freshWZ_ports : (s.freshWZ).ports = s.ports := rfl
@[simp] theorem freshWZ_devices : (s.freshWZ).devices = s.devices := rfl
@[simp] theorem freshWZ_memInstalled : (s.freshWZ).memInstalled = s.memInstalled := rfl
@[simp] theorem freshWZ_mem : (s.freshWZ).mem = s.mem := rfl
@[simp] theorem freshWZ_handle : (s.freshWZ).handle = s.handle := rfl

/-! ### advanceR -/

@[simp] theorem advanceR_main (n : Nat) : (s.advanceR n).main = s.main := by
  induction n generalizing s with
  | zero => rfl
  | succ n ih => simp [State.advanceR, ih]

@[simp] theorem advanceR_shadow (n : Nat) : (s.advanceR n).shadow = s.shadow := by
  induction n generalizing s with
  | zero => rfl
  | succ n ih => simp [State.advanceR, ih]

@[simp] theorem advanceR_ix (n : Nat) : (s.advanceR n).ix = s.ix := by
  induction n generalizing s with
  | zero => rfl
  | succ n ih => simp [State.advanceR, ih]

@[simp] theorem advanceR_iy (n : Nat) : (s.advanceR n).iy = s.iy := by
  induction n generalizing s with
  | zero => rfl
  | succ n ih => simp [State.advanceR, ih]

@[simp] theorem advanceR_sp (n : Nat) : (s.advanceR n).sp = s.sp := by
  induction n generalizing s with
  | zero => rfl
  | succ n ih => simp [State.advanceR, ih]

@[simp] theorem advanceR_pc (n : Nat) : (s.advanceR n).pc = s.pc := by
  induction n generalizing s with
  | zero => rfl
  | succ n ih => simp [State.advanceR, ih]

@[simp] theorem advanceR_iReg (n : Nat) : (s.advanceR n).iReg = s.iReg := by
  induction n generalizing s with
  | zero => rfl
  | succ n ih => simp [State.advanceR, ih]

@[simp] theorem advanceR_wz (n : Nat) : (s.advanceR n).wz = s.wz := by
  induction n generalizing s with
  | zero => rfl
  | succ n ih => simp [State.advanceR, ih]

@[simp] theorem advanceR_iff1 (n : Nat) : (s.advanceR n).iff1 = s.iff1 := by
  induction n generalizing s with
  | zero => rfl
  | succ n ih => simp [State.advanceR, ih]

@[simp] theorem advanceR_iff2 (n : Nat) : (s.advanceR n).iff2 = s.iff2 := by
  induction n generalizing s with
  | zero => rfl
  | succ n ih => simp [State.advanceR, ih]

@[simp] theorem advanceR_im (n : Nat) : (s.advanceR n).im = s.im := by
  induction n generalizing s with
  | zero => rfl
  | succ n ih => simp [State.advanceR, ih]

@[simp] theorem advanceR_halted (n : Nat) : (s.advanceR n).halted = s.halted := by
  induction n generalizing s with
  | zero => rfl
  | succ n ih => simp [State.advanceR, ih]

@[simp] theorem advanceR_eiDelay (n : Nat) : (s.advanceR n).eiDelay = s.eiDelay := by
  induction n generalizing s with
  | zero => rfl
  | succ n ih => simp [State.advanceR, ih]

@[simp] theorem advanceR_icPending (n : Nat) : (s.advanceR n).icPending = s.icPending := by
  induction n generalizing s with
  | zero => rfl
  | succ n ih => simp [State.advanceR, ih]

@[simp] theorem advanceR_icBus (n : Nat) : (s.advanceR n).icBus = s.icBus := by
  induction n generalizing s with
  | zero => rfl
  | succ n ih => simp [State.advanceR, ih]

@[simp] theorem advanceR_icLock (n : Nat) : (s.advanceR n).icLock = s.icLock := by
  induction n generalizing s with
  | zero => rfl
  | succ n ih => simp [State.advanceR, ih]

@[simp] theorem advanceR_ports (n : Nat) : (s.advanceR n).ports = s.ports := by
  induction n generalizing s with
  | zero => rfl
  | succ n ih => simp [State.advanceR, ih]

@[simp] theorem advanceR_devices (n : Nat) : (s.advanceR n).devices = s.devices := by
  induction n generalizing s with
  | zero => rfl
  | succ n ih => simp [State.advanceR, ih]

@[simp] theorem advanceR_memInstalled (n : Nat) : (s.advanceR n).memInstalled = s.memInstalled := by
  induction n generalizing s with
  | zero => rfl
  | succ n ih => simp [State.advanceR, ih]

@[simp] theorem advanceR_mem (n : Nat) : (s.advanceR n).mem = s.mem := by
  induction n generalizing s with
  | zero => rfl
  | succ n ih => simp [State.advanceR, ih]

@[simp] theorem advanceR_handle (n : Nat) : (s.advanceR n).handle = s.handle := by
  induction n generalizing s with
  | zero => rfl
  | succ n ih => simp [State.advanceR, ih]

@[simp] theorem advanceR_wzSeq (n : Nat) : (s.advanceR n).wzSeq = s.wzSeq := by
  induction n generalizing s with
  | zero => rfl
  | succ n ih => simp [State.advanceR, ih]

/-! ### What an update sets -/

@[simp] theorem setF_f (v : Byte) : (s.setF v).main.f = v := rfl
@[simp] theorem setFlags_f (g : Flags) : (s.setFlags g).main.f = putFlags s.main.f g := rfl
@[simp] theorem setR8_f (r : R8) (v : Byte) : (s.setR8 r v).main.f = s.main.f := by cases r <;> rfl
@[simp] theorem setBC_f (w : Word) : (s.setBC w).main.f = s.main.f := rfl
@[simp] theorem setDE_f (w : Word) : (s.setDE w).main.f = s.main.f := rfl
@[simp] theorem setHL_f (w : Word) : (s.setHL w).main.f = s.main.f := rfl
@[simp] theorem setSP_sp (w : Word) : (s.setSP w).sp = w := rfl
@[simp] theorem setPC_pc (w : Word) : (s.setPC w).pc = w := rfl
@[simp] theorem setIdx_ix_ix (w : Word) : (s.setIdx .ix w).ix = w := rfl
@[simp] theorem setIdx_ix_iy (w : Word) : (s.setIdx .ix w).iy = s.iy := rfl
@[simp] theorem setIdx_iy_iy (w : Word) : (s.setIdx .iy w).iy = w := rfl
@[simp] theorem setIdx_iy_ix (w : Word) : (s.setIdx .iy w).ix = s.ix := rfl
@[simp] theorem dropTop_sp : s.dropTop.sp = s.sp + 2 := rfl
@[simp] theorem push_sp (w : Word) : (s.push w).sp = s.sp - 2 := rfl
@[simp] theorem popPC_sp : s.popPC.sp = s.sp + 2 := rfl
@[simp] theorem popPC_pc : s.popPC.pc = s.top := rfl
@[simp] theorem afterRead_mem (a : Word) : (s.afterRead a).mem = s.mem.after [.read a] := rfl
@[simp] theorem afterReadWord_mem (a : Word) :
    (s.afterReadWord a).mem = s.mem.after [.read a, .read (a + 1)] := rfl
@[simp] theorem writeByte_mem (a : Word) (v : Byte) :
    (s.writeByte a v).mem = s.mem.after [.write a v] := rfl
@[simp] theorem writeWord_mem (a w : Word) :
    (s.writeWord a w).mem = s.mem.after [.write a (loByte w), .write (a + 1) (hiByte w)] := rfl
@[simp] theorem push_mem (w : Word) :
    (s.push w).mem = s.mem.after [.write (s.sp - 1) (hiByte w), .write (s.sp - 2) (loByte w)] := rfl
@[simp] theorem dropTop_mem : s.dropTop.mem = s.mem.after [.read s.sp, .read (s.sp + 1)] := rfl
@[simp] theorem popPC_mem : s.popPC.mem = s.mem.after [.read s.sp, .read (s.sp + 1)] := rfl
@[simp] theorem setDevice_devices (id : Nat) (d : Device) :
    (s.setDevice id d).devices = tablePut s.devices id d := rfl
@[simp] theorem freshWZ_wz : s.freshWZ.wz = Config.wzScratch s.wzSeq := rfl
@[simp] theorem freshWZ_wzSeq : s.freshWZ.wzSeq = s.wzSeq + 1 := rfl
theorem repeatIf_pc (b : Bool) : (s.repeatIf b).pc = if b then s.pc - 2 else s.pc := by
  unfold State.repeatIf; split <;> rfl

/-- One register after a write of one register. -/
@[simp] theorem getR8_setR8 (r q : R8) (v : Byte) :
    (s.setR8 r v).getR8 q = if q = r then v else s.getR8 q := by
  cases r <;> cases q <;> rfl

@[simp] theorem getR8_setF (q : R8) (v : Byte) : (s.setF v).getR8 q = s.getR8 q := by
  cases q <;> rfl

@[simp] theorem getR8_setFlags (q : R8) (g : Flags) : (s.setFlags g).getR8 q = s.getR8 q := by
  cases q <;> rfl

/-- The registers depend on the main set alone. -/
theorem getR8_congr {s t : State} (h : t.main = s.main) (q : R8) : t.getR8 q = s.getR8 q := by
  cases q <;> simp [State.getR8, h]

/-- Reading memory depends on the provider alone. -/
theorem readByte_congr {s t : State} (h : t.mem = s.mem) (a : Word) :
    t.readByte a = s.readByte a := by
  simp [State.readByte, h]

/-! ### Registers and memory across updates of something else -/

@[simp] theorem setR8_readByte (r : R8) (v : Byte) (q : Word) : (s.setR8 r v).readByte q = s.readByte q := readByte_congr (by simp) q
@[simp] theorem setF_readByte (v : Byte) (q : Word) : (s.setF v).readByte q = s.readByte q := rfl
@[simp] theorem setFlags_readByte (g : Flags) (q : Word) : (s.setFlags g).readByte q = s.readByte q := rfl
@[simp] theorem setAF_readByte (w : Word) (q : Word) : (s.setAF w).readByte q = s.readByte q := rfl
@[simp] theorem setBC_readByte (w : Word) (q : Word) : (s.setBC w).readByte q = s.readByte q := rfl
@[simp] theorem setDE_readByte (w : Word) (q : Word) : (s.setDE w).readByte q = s.readByte q := rfl
@[simp] theorem setHL_readByte (w : Word) (q : Word) : (s.setHL w).readByte q = s.readByte q := rfl
@[simp] theorem setSP_readByte (w : Word) (q : Word) : (s.setSP w).readByte q = s.readByte q := rfl
@[simp] theorem setSP_getR8 (w : Word) (q : R8) : (s.setSP w).getR8 q = s.getR8 q := getR8_congr (by simp) q
@[simp] theorem setPC_readByte (w : Word) (q : Word) : (s.setPC w).readByte q = s.readByte q := rfl
@[simp] theorem setPC_getR8 (w : Word) (q : R8) : (s.setPC w).getR8 q = s.getR8 q := getR8_congr (by simp) q
@[simp] theorem setIdx_readByte (x : Idx) (w : Word) (q : Word) : (s.setIdx x w).readByte q = s.readByte q := readByte_congr (by simp) q
@[simp] theorem setIdx_getR8 (x : Idx) (w : Word) (q : R8) : (s.setIdx x w).getR8 q = s.getR8 q := getR8_congr (by simp) q
@[simp] theorem setDd_readByte (p : PairDd) (w : Word) (q : Word) : (s.setDd p w).readByte q = s.readByte q := readByte_congr (by simp) q
@[simp] theorem setQq_readByte (p : PairQq) (w : Word) (q : Word) : (s.setQq p w).readByte q = s.readByte q := readByte_congr (by simp) q
@[simp] theorem afterRead_getR8 (a : Word) (q : R8) : (s.afterRead a).getR8 q = s.getR8 q := getR8_congr (by simp) q
@[simp] theorem afterReadWord_getR8 (a : Word) (q : R8) : (s.afterReadWord a).getR8 q = s.getR8 q := getR8_congr (by simp) q
@[simp] theorem afterLoad_getR8 (p : Place) (q : R8) : (s.afterLoad p).getR8 q = s.getR8 q := getR8_congr (by simp) q
@[simp] theorem writeByte_getR8 (a : Word) (v : Byte) (q : R8) : (s.writeByte a v).getR8 q = s.getR8 q := getR8_congr (by simp) q
@[simp] theorem writeWord_getR8 (a w : Word) (q : R8) : (s.writeWord a w).getR8 q = s.getR8 q := getR8_congr (by simp) q
@[simp] theorem push_getR8 (w : Word) (q : R8) : (s.push w).getR8 q = s.getR8 q := getR8_congr (by simp) q
@[simp] theorem dropTop_getR8 (q : R8) : (s.dropTop).getR8 q = s.getR8 q := getR8_congr (by simp) q
@[simp] theorem popPC_getR8 (q : R8) : (s.popPC).getR8 q = s.getR8 q := getR8_congr (by simp) q
@[simp] theorem setDevice_readByte (id : Nat) (d : Device) (q : Word) : (s.setDevice id d).readByte q = s.readByte q := rfl
@[simp] theorem setDevice_getR8 (id : Nat) (d : Device) (q : R8) : (s.setDevice id d).getR8 q = s.getR8 q := getR8_congr (by simp) q
@[simp] theorem afterIoRead_readByte (p : Byte) (q : Word) : (s.afterIoRead p).readByte q = s.readByte q := readByte_congr (by simp) q
@[simp] theorem afterIoRead_getR8 (p : Byte) (q : R8) : (s.afterIoRead p).getR8 q = s.getR8 q := getR8_congr (by simp) q
@[simp] theorem ioWrite_readByte (p v : Byte) (q : Word) : (s.ioWrite p v).readByte q = s.readByte q := readByte_congr (by simp) q
@[simp] theorem ioWrite_getR8 (p v : Byte) (q : R8) : (s.ioWrite p v).getR8 q = s.getR8 q := getR8_congr (by simp) q
@[simp] theorem repeatIf_readByte (b : Bool) (q : Word) : (s.repeatIf b).readByte q = s.readByte q := readByte_congr (by simp) q
@[simp] theorem repeatIf_getR8 (b : Bool) (q : R8) : (s.repeatIf b).getR8 q = s.getR8 q := getR8_congr (by simp) q
@[simp] theorem acceptCommon_readByte (q : Word) : (s.acceptCommon).readByte q = s.readByte q := rfl
@[simp] theorem acceptCommon_getR8 (q : R8) : (s.acceptCommon).getR8 q = s.getR8 q := getR8_congr (by simp) q
@[simp] theorem freshWZ_readByte (q : Word) : (s.freshWZ).readByte q = s.readByte q := rfl
@[simp] theorem freshWZ_getR8 (q : R8) : (s.freshWZ).getR8 q = s.getR8 q := getR8_congr (by simp) q
@[simp] theorem advanceR_readByte (n : Nat) (q : Word) : (s.advanceR n).readByte q = s.readByte q :=
  readByte_congr (by simp) q
@[simp] theorem advanceR_getR8 (n : Nat) (q : R8) : (s.advanceR n).getR8 q = s.getR8 q :=
  getR8_congr (by simp) q

/-! ### The main set after a write of one register or pair -/

@[simp] theorem setR8_main_a (v : Byte) : (s.setR8 .a v).main = { s.main with a := v } := rfl
@[simp] theorem setR8_main_b (v : Byte) : (s.setR8 .b v).main = { s.main with b := v } := rfl
@[simp] theorem setBC_main (w : Word) :
    (s.setBC w).main = { s.main with b := hiByte w, c := loByte w } := rfl
@[simp] theorem setDE_main (w : Word) :
    (s.setDE w).main = { s.main with d := hiByte w, e := loByte w } := rfl
@[simp] theorem setHL_main (w : Word) :
    (s.setHL w).main = { s.main with h := hiByte w, l := loByte w } := rfl
@[simp] theorem setFlags_main (g : Flags) :
    (s.setFlags g).main = { s.main with f := putFlags s.main.f g } := rfl

theorem getR8_setAF (q : R8) (w : Word) :
    (s.setAF w).getR8 q = if q = .a then hiByte w else s.getR8 q := by
  cases q <;> rfl
theorem getR8_setBC (q : R8) (w : Word) :
    (s.setBC w).getR8 q = if q = .b then hiByte w else if q = .c then loByte w else s.getR8 q := by
  cases q <;> rfl
theorem getR8_setDE (q : R8) (w : Word) :
    (s.setDE w).getR8 q = if q = .d then hiByte w else if q = .e then loByte w else s.getR8 q := by
  cases q <;> rfl
theorem getR8_setHL (q : R8) (w : Word) :
    (s.setHL w).getR8 q = if q = .h then hiByte w else if q = .l then loByte w else s.getR8 q := by
  cases q <;> rfl

end Sys2Proof.Machine
end

