-- ==== Sys2Proof/Laws/Memory.lean ====
section
/-! SUPPORT. Sparse tables and memory: reading after writing, and that every operation keeps the canonical
form. -/

namespace Sys2Proof.Machine

section Tables

variable {α : Type}

@[simp] theorem tableGet_put_same (t : List (Nat × α)) (k : Nat) (v : α) :
    tableGet (tablePut t k v) k = some v := by
  induction t with
  | nil => simp [tablePut, tableGet]
  | cons h t ih =>
    obtain ⟨q, w⟩ := h
    simp only [tablePut]
    split
    · simp [tableGet]
    · split
      · simp [tableGet]
      · rename_i _ h2
        simp [tableGet, ih, Ne.symm h2]

theorem tableGet_put_other (t : List (Nat × α)) {k q : Nat} (v : α) (h : q ≠ k) :
    tableGet (tablePut t k v) q = tableGet t q := by
  induction t with
  | nil => simp [tablePut, tableGet, Ne.symm h]
  | cons e t ih =>
    obtain ⟨p, w⟩ := e
    simp only [tablePut]
    split
    · simp [tableGet, Ne.symm h]
    · split
      · rename_i _ h2
        subst h2
        simp [tableGet, Ne.symm h]
      · simp [tableGet, ih]

@[simp] theorem tableGet_erase_same (t : List (Nat × α)) (k : Nat) :
    tableGet (tableErase t k) k = none := by
  induction t with
  | nil => rfl
  | cons e t ih =>
    obtain ⟨p, w⟩ := e
    simp only [tableErase]
    split
    · exact ih
    · rename_i h
      simp [tableGet, h, ih]

theorem tableGet_erase_other (t : List (Nat × α)) {k q : Nat} (h : q ≠ k) :
    tableGet (tableErase t k) q = tableGet t q := by
  induction t with
  | nil => rfl
  | cons e t ih =>
    obtain ⟨p, w⟩ := e
    simp only [tableErase]
    split
    · rename_i h2
      subst h2
      simp [tableGet, ih, Ne.symm h]
    · simp [tableGet, ih]

theorem tableAbove_put {lo : Nat} {t : List (Nat × α)} {k : Nat} {v : α}
    (h : tableAbove lo t = true) (hk : lo < k) : tableAbove lo (tablePut t k v) = true := by
  induction t with
  | nil => simp [tablePut, tableAbove, hk]
  | cons e t ih =>
    obtain ⟨p, w⟩ := e
    simp only [tableAbove, List.all_cons, Bool.and_eq_true, decide_eq_true_eq] at h ih ⊢
    simp only [tablePut]
    split
    · simp [hk, h.1, h.2]
    · split
      · simp [hk, h.2]
      · simp [h.1, ih h.2]

theorem tableAbove_trans {lo hi : Nat} {t : List (Nat × α)} (h : tableAbove hi t = true)
    (hk : lo ≤ hi) : tableAbove lo t = true := by
  simp only [tableAbove, List.all_eq_true, decide_eq_true_eq] at h ⊢
  intro x hx
  have := h x hx
  omega

/-- Listing a value keeps the keys strictly rising. -/
theorem tableSorted_put {t : List (Nat × α)} {k : Nat} {v : α} (h : tableSorted t = true) :
    tableSorted (tablePut t k v) = true := by
  induction t with
  | nil => simp [tablePut, tableSorted, tableAbove]
  | cons e t ih =>
    obtain ⟨p, w⟩ := e
    simp only [tableSorted, Bool.and_eq_true] at h
    simp only [tablePut]
    split
    · rename_i hlt
      simp only [tableSorted, tableAbove, List.all_cons, Bool.and_eq_true, decide_eq_true_eq]
      exact ⟨⟨hlt, tableAbove_trans h.1 (Nat.le_of_lt hlt)⟩, h.1, h.2⟩
    · split
      · rename_i _ h2
        subst h2
        simp [tableSorted, h.1, h.2]
      · rename_i h1 h2
        simp only [tableSorted, Bool.and_eq_true]
        exact ⟨tableAbove_put h.1 (by omega), ih h.2⟩

theorem mem_erase {t : List (Nat × α)} {k : Nat} {x : Nat × α} (h : x ∈ tableErase t k) : x ∈ t := by
  induction t with
  | nil => simp [tableErase] at h
  | cons e t ih =>
    obtain ⟨p, w⟩ := e
    simp only [tableErase] at h
    split at h
    · exact List.mem_cons_of_mem _ (ih h)
    · simp only [List.mem_cons] at h ⊢
      exact h.imp_right ih

theorem mem_put {t : List (Nat × α)} {k : Nat} {v : α} {x : Nat × α}
    (h : x ∈ tablePut t k v) : x = (k, v) ∨ x ∈ t := by
  induction t with
  | nil => simpa [tablePut] using h
  | cons e t ih =>
    obtain ⟨p, w⟩ := e
    simp only [tablePut] at h
    split at h
    · simp only [List.mem_cons] at h ⊢
      exact h
    · split at h
      · simp only [List.mem_cons] at h ⊢
        exact h.imp_right .inr
      · simp only [List.mem_cons] at h ⊢
        rcases h with h | h
        · exact .inr (.inl h)
        · exact (ih h).imp_right .inr

/-- Taking a key out keeps the keys strictly rising. -/
theorem tableSorted_erase {t : List (Nat × α)} {k : Nat} (h : tableSorted t = true) :
    tableSorted (tableErase t k) = true := by
  induction t with
  | nil => rfl
  | cons e t ih =>
    obtain ⟨p, w⟩ := e
    simp only [tableSorted, Bool.and_eq_true] at h
    simp only [tableErase]
    split
    · exact ih h.2
    · simp only [tableSorted, Bool.and_eq_true]
      refine ⟨?_, ih h.2⟩
      have h1 := h.1
      simp only [tableAbove, List.all_eq_true] at h1 ⊢
      exact fun x hx => h1 x (mem_erase hx)

theorem tableBelow_put {hi : Nat} {t : List (Nat × α)} {k : Nat} {v : α}
    (h : tableBelow hi t = true) (hk : k < hi) : tableBelow hi (tablePut t k v) = true := by
  simp only [tableBelow, List.all_eq_true, decide_eq_true_eq] at h ⊢
  intro x hx
  rcases mem_put hx with rfl | hx
  · exact hk
  · exact h x hx

theorem tableGet_of_above {lo : Nat} {t : List (Nat × α)} (h : tableAbove lo t = true) {k : Nat}
    (hk : k ≤ lo) : tableGet t k = none := by
  induction t with
  | nil => rfl
  | cons e t ih =>
    obtain ⟨p, w⟩ := e
    simp only [tableAbove, List.all_cons, Bool.and_eq_true, decide_eq_true_eq] at h
    have : p ≠ k := by omega
    simp only [tableGet, this, if_false]
    exact ih h.2

/-- Sorted tables that answer alike are equal. -/
theorem table_ext {t u : List (Nat × α)} (ht : tableSorted t = true) (hu : tableSorted u = true)
    (h : ∀ k, tableGet t k = tableGet u k) : t = u := by
  induction t generalizing u with
  | nil =>
    cases u with
    | nil => rfl
    | cons e u => have := h e.1; simp [tableGet] at this
  | cons e t ih =>
    obtain ⟨p, w⟩ := e
    cases u with
    | nil => have := h p; simp [tableGet] at this
    | cons f u =>
      obtain ⟨q, x⟩ := f
      simp only [tableSorted, Bool.and_eq_true] at ht hu
      have hpq : p = q := by
        rcases Nat.lt_trichotomy p q with hlt | heq | hgt
        · have := h p
          simp [tableGet, Nat.ne_of_gt hlt, tableGet_of_above hu.1 (Nat.le_of_lt hlt)] at this
        · exact heq
        · have := h q
          simp [tableGet, Nat.ne_of_gt hgt, tableGet_of_above ht.1 (Nat.le_of_lt hgt)] at this
      subst hpq
      have hw : w = x := by have := h p; simpa [tableGet] using this
      subst hw
      refine congrArg _ (ih ht.2 hu.2 fun k => ?_)
      by_cases hk : p = k
      · subst hk
        rw [tableGet_of_above ht.1 (Nat.le_refl _), tableGet_of_above hu.1 (Nat.le_refl _)]
      · have := h k
        simpa [tableGet, hk] using this

end Tables

/-! ### Memory -/

/-- Reading after a write. -/
theorem Memory.read_write (m : Memory) (a b : Nat) (v : Byte) :
    Memory.read (Memory.write m a v) b = if b = a then v else Memory.read m b := by
  unfold Memory.read Memory.write
  split
  · rename_i hv
    split
    · rename_i h; subst h; simp [hv]
    · rename_i h; rw [tableGet_erase_other _ h]
  · split
    · rename_i h; subst h; simp
    · rename_i h; rw [tableGet_put_other _ _ h]

/-- A write inside the space keeps the canonical form. -/
theorem Memory.wf_write {m : Memory} {a : Nat} {v : Byte} (h : Memory.wf m = true)
    (ha : a < Config.memCells) : Memory.wf (Memory.write m a v) = true := by
  simp only [Memory.wf, Bool.and_eq_true, List.all_eq_true] at h ⊢
  obtain ⟨hs, hc⟩ := h
  unfold Memory.write
  split
  · exact ⟨tableSorted_erase hs, fun x hx => hc x (mem_erase hx)⟩
  · rename_i hv
    refine ⟨tableSorted_put hs, fun x hx => ?_⟩
    rcases mem_put hx with rfl | hx
    · simp [ha, hv]
    · exact hc x hx

theorem Memory.wf_nil : Memory.wf [] = true := by decide

/-- A provider's content is in canonical form. -/
theorem Memory.wf_ofCells (cs : List Host.Cell) : Memory.wf (Memory.ofCells cs) = true := by
  have step : ∀ (l : List Host.Cell) (m : Memory), Memory.wf m = true →
      Memory.wf (l.foldl (fun m c => Memory.write m (c.1 % Config.memCells) c.2) m) = true := by
    intro l
    induction l with
    | nil => exact fun m h => h
    | cons c l ih =>
      exact fun m h => ih _ (Memory.wf_write h (Nat.mod_lt _ (by decide)))
  exact step cs [] Memory.wf_nil

/-- Canonical memories that read alike are equal. -/
theorem Memory.ext {m n : Memory} (hm : Memory.wf m = true) (hn : Memory.wf n = true)
    (h : ∀ a, Memory.read m a = Memory.read n a) : m = n := by
  simp only [Memory.wf, Bool.and_eq_true, List.all_eq_true] at hm hn
  have key : ∀ (t : Memory), (∀ x ∈ t, decide (x.1 < Config.memCells) = true ∧ (x.2 != Config.memInit) = true) →
      ∀ (k : Nat) (v : Byte), tableGet t k = some v → v ≠ Config.memInit := by
    intro t ht k v
    induction t with
    | nil => simp [tableGet]
    | cons e t ih =>
      obtain ⟨p, w⟩ := e
      simp only [tableGet]
      split
      · intro hv
        have := ht (p, w) (by simp)
        simp only [Option.some.injEq] at hv
        subst hv
        simpa using this.2
      · exact ih (fun x hx => ht x (List.mem_cons_of_mem _ hx))
  refine table_ext hm.1 hn.1 fun k => ?_
  have hk := h k
  unfold Memory.read at hk
  cases h1 : tableGet m k with
  | none =>
    cases h2 : tableGet n k with
    | none => rfl
    | some v =>
      rw [h1, h2] at hk
      exact absurd hk.symm (key n hn.2 k v h2)
  | some v =>
    cases h2 : tableGet n k with
    | none =>
      rw [h1, h2] at hk
      exact absurd hk (key m hm.2 k v h1)
    | some w =>
      rw [h1, h2] at hk
      simpa using hk

/-- A provider's cells read as listed: the last one at a number counts. -/
theorem Memory.read_ofCells (cs : List Host.Cell) (k : Nat) :
    Memory.read (Memory.ofCells cs) k = lastListed cs k := by
  have step : ∀ (l : List Host.Cell),
      Memory.read (l.foldr (fun c m => Memory.write m (c.1 % Config.memCells) c.2) []) k =
        ((l.find? fun c => c.1 % 65536 = k).map (·.2)).getD Config.memInit := by
    intro l
    induction l with
    | nil => rfl
    | cons c l ih =>
      rw [List.foldr_cons, Memory.read_write, ih, List.find?_cons]
      by_cases h : c.1 % 65536 = k
      · simp [h, Config.memCells]
      · simp [h, Ne.symm h, Config.memCells]
  have h := step cs.reverse
  rw [List.foldr_reverse] at h
  exact h

/-! ### Maps of regions -/

/-- Where no region holds an address there is the cell of its own number. -/
theorem resolve_free {rs : List Region} {a : Nat} (h : ∀ r ∈ rs, ¬ r.Holds a) :
    resolve rs a = .cells a true := by
  induction rs with
  | nil => rfl
  | cons r rs ih =>
    have hr : ¬ (r.first ≤ a ∧ a < r.first + r.size) := h r (by simp)
    simp [resolve, hr, ih fun q hq => h q (by simp [hq])]

/-- The first region that holds an address says what stands there. -/
theorem resolve_decides {rs : List Region} {r : Region} {a : Nat} (h : Decides rs r a) :
    resolve rs a =
      match r.backing with
      | .cells base w => .cells ((base + (a - r.first)) % 65536) w
      | .absent v => .absent v := by
  obtain ⟨above, below, rfl, hr, ha⟩ := h
  induction above with
  | nil =>
    have hr' : r.first ≤ a ∧ a < r.first + r.size := hr
    cases hb : r.backing <;> simp [resolve, hr', hb, Config.memCells]
  | cons q qs ih =>
    have hq : ¬ (q.first ≤ a ∧ a < q.first + q.size) := ha q (by simp)
    simp [resolve, hq, ih fun p hp => ha p (by simp [hp])]

/-- A cell behind an address has a number in the space. -/
theorem resolve_lt {rs : List Region} {a k : Nat} {w : Bool} (ha : a < Config.memCells)
    (h : resolve rs a = .cells k w) : k < Config.memCells := by
  induction rs with
  | nil => cases h; exact ha
  | cons r rs ih =>
    rw [resolve] at h
    split at h
    · cases hb : r.backing with
      | cells base v =>
        rw [hb] at h
        cases h
        exact Nat.mod_lt _ (by decide)
      | absent v => rw [hb] at h; cases h
    · exact ih h

/-! ### Providers -/

@[simp] theorem Provider.after_nil (m : Provider) : m.after [] = m := rfl

@[simp] theorem Provider.after_cons (m : Provider) (x : Config.MemAccess)
    (xs : List Config.MemAccess) : m.after (x :: xs) = (m.access x).after xs := rfl

theorem Provider.after_append (m : Provider) (xs ys : List Config.MemAccess) :
    m.after (xs ++ ys) = (m.after xs).after ys := List.foldl_append

/-- The reference provider is flat RAM. -/
theorem Provider.isReference_iff (m : Provider) :
    m.isReference = true ↔ ∃ cells, m = .reference cells := by
  cases m with
  | backed rs cs => cases rs <;> simp [Provider.isReference, Provider.reference]
  | host id log => simp [Provider.isReference, Provider.reference]

/-- A read changes no provider that keeps its bytes in cells. -/
@[simp] theorem Provider.access_read_backed (rs : List Region) (cs : Memory) (a : Word) :
    (Provider.backed rs cs).access (.read a) = .backed rs cs := rfl

/-- One access of the reference provider: a read of it changes nothing. -/
theorem Provider.access_reference (cells : Memory) (x : Config.MemAccess) :
    (Provider.reference cells).access x =
      match x with
      | .read _ => .reference cells
      | .write a v => .reference (Memory.write cells a.toNat v) := by
  cases x <;> rfl

theorem Provider.isReference_access {m : Provider} (h : m.isReference = true)
    (x : Config.MemAccess) : (m.access x).isReference = true := by
  obtain ⟨cells, rfl⟩ := m.isReference_iff.mp h
  cases x <;> rfl

theorem Provider.isReference_after {m : Provider} (h : m.isReference = true)
    (xs : List Config.MemAccess) : (m.after xs).isReference = true := by
  induction xs generalizing m with
  | nil => exact h
  | cons x xs ih => exact ih (Provider.isReference_access h x)

/-- WHAT THE REFERENCE PROVIDER ANSWERS AFTER ACCESSES: the last byte written, else the old one. -/
theorem Provider.read_after {m : Provider} (h : m.isReference = true)
    (xs : List Config.MemAccess) (a : Word) : (m.after xs).read a = lastByte xs a (m.read a) := by
  induction xs generalizing m with
  | nil => rfl
  | cons x xs ih =>
    obtain ⟨cells, rfl⟩ := m.isReference_iff.mp h
    rw [Provider.after_cons, ih (Provider.isReference_access h x)]
    cases x with
    | read b => rfl
    | write b v =>
      rw [lastByte, Provider.access_reference]
      congr 1
      simp [Provider.reference, Provider.read, resolve, Memory.read_write, BitVec.toNat_inj,
        eq_comm]

/-- Reads alone leave the reference provider as it is. -/
theorem Provider.after_reads {m : Provider} (h : m.isReference = true)
    {xs : List Config.MemAccess} (hx : ∀ x ∈ xs, ∃ a, x = .read a) : m.after xs = m := by
  induction xs with
  | nil => rfl
  | cons x xs ih =>
    obtain ⟨cells, rfl⟩ := m.isReference_iff.mp h
    obtain ⟨a, rfl⟩ := hx x (by simp)
    exact ih fun y hy => hx y (by simp [hy])

/-- An access keeps the canonical form. -/
theorem Provider.wf_access {m : Provider} (h : m.wf = true) (x : Config.MemAccess) :
    (m.access x).wf = true := by
  cases m with
  | host id log => exact h
  | backed rs cs =>
    cases x with
    | read a => exact h
    | write a v =>
      simp only [Provider.access]
      split
      · rename_i hr
        exact Memory.wf_write h (resolve_lt a.isLt hr)
      · exact h
      · exact h

/-- A list of accesses keeps it. -/
theorem Provider.wf_after {m : Provider} (h : m.wf = true) (xs : List Config.MemAccess) :
    (m.after xs).wf = true := by
  induction xs generalizing m with
  | nil => exact h
  | cons x xs ih => exact ih (Provider.wf_access h x)

/-- An installed provider is in canonical form. -/
theorem Provider.wf_canonical (m : Provider) : m.canonical.wf = true := by
  cases m with
  | backed rs cs => exact Memory.wf_ofCells cs
  | host id log => rfl

/-! ### Bytes of the state -/

/-- What lies between two states whose providers differ by a list of accesses. -/
theorem accessed_of {s t : State} {xs : List Config.MemAccess} (h : t.mem = s.mem.after xs) :
    Accessed xs s t :=
  ⟨h, fun hr a => by rw [State.readByte, h, Provider.read_after hr]; rfl⟩

/-- Reading a byte after a byte is written, on the reference provider. -/
theorem readByte_writeByte {s : State} (h : s.mem.isReference = true) (a b : Word) (v : Byte) :
    (s.writeByte a v).readByte b = if b = a then v else s.readByte b := by
  rw [(accessed_of (writeByte_mem s a v)).2 h]
  simp [lastByte, eq_comm]

/-- Reading a byte after a push, on the reference provider. -/
theorem readByte_push {s : State} (h : s.mem.isReference = true) (w b : Word) :
    (s.push w).readByte b =
      if b = s.sp - 2 then loByte w else if b = s.sp - 1 then hiByte w else s.readByte b := by
  rw [(accessed_of (push_mem s w)).2 h]
  simp [lastByte, eq_comm]

/-! ### The device table keeps its form -/

theorem sorted_setDevice {s : State} (h : tableSorted s.devices = true) (id : Nat) (d : Device) :
    tableSorted (s.setDevice id d).devices = true :=
  tableSorted_put h

theorem sorted_afterIoRead {s : State} (h : tableSorted s.devices = true) (p : Byte) :
    tableSorted (s.afterIoRead p).devices = true := by
  unfold State.afterIoRead
  split
  · exact h
  · exact sorted_setDevice h _ _

theorem sorted_ioWrite {s : State} (h : tableSorted s.devices = true) (p v : Byte) :
    tableSorted (s.ioWrite p v).devices = true := by
  unfold State.ioWrite
  split
  · exact h
  · exact sorted_setDevice h _ _

end Sys2Proof.Machine
end

