-- ==== Sys2Proof/Laws/Words.lean ====
section
/-! SUPPORT. Bytes and words: halves and joins, the top bit as a comparison, flags in and out of F, and
the arithmetic helpers as arithmetic on numbers. -/

namespace Sys2Proof

@[simp] theorem hiByte_wordOf (l h : Byte) : hiByte (wordOf l h) = h := by
  apply BitVec.eq_of_toNat_eq
  simp only [hiByte, wordOf, BitVec.extractLsb'_toNat, BitVec.toNat_append, Nat.shiftRight_eq_div_pow]
  have := l.isLt; have := h.isLt
  rw [← Nat.shiftLeft_add_eq_or_of_lt l.isLt, Nat.shiftLeft_eq]
  omega

@[simp] theorem loByte_wordOf (l h : Byte) : loByte (wordOf l h) = l := by
  apply BitVec.eq_of_toNat_eq
  simp only [loByte, wordOf, BitVec.extractLsb'_toNat, BitVec.toNat_append, Nat.shiftRight_eq_div_pow]
  have := l.isLt; have := h.isLt
  rw [← Nat.shiftLeft_add_eq_or_of_lt l.isLt, Nat.shiftLeft_eq]
  omega

theorem wordOf_toNat (l h : Byte) : (wordOf l h).toNat = h.toNat * 256 + l.toNat := by
  rw [wordOf, BitVec.toNat_append, ← Nat.shiftLeft_add_eq_or_of_lt l.isLt, Nat.shiftLeft_eq]

theorem hiByte_toNat (w : Word) : (hiByte w).toNat = w.toNat / 256 := by
  have := w.isLt
  simp only [hiByte, BitVec.extractLsb'_toNat, Nat.shiftRight_eq_div_pow]
  omega

theorem loByte_toNat (w : Word) : (loByte w).toNat = w.toNat % 256 := by
  simp [loByte, BitVec.extractLsb'_toNat]

@[simp] theorem wordOf_lo_hi (w : Word) : wordOf (loByte w) (hiByte w) = w := by
  apply BitVec.eq_of_toNat_eq
  rw [wordOf_toNat, hiByte_toNat, loByte_toNat]
  omega

/-- The top bit of a byte. -/
theorem byte_top (v : Byte) : v.getLsbD 7 = decide (128 ≤ v.toNat) := by
  have h := BitVec.msb_eq_decide v
  simpa [BitVec.msb_eq_getLsbD_last] using h

/-- The top bit of a word. -/
theorem word_top (v : Word) : v.getLsbD 15 = decide (32768 ≤ v.toNat) := by
  have h := BitVec.msb_eq_decide v
  simpa [BitVec.msb_eq_getLsbD_last] using h

namespace Machine

@[simp] theorem flagsOf_putFlags (f : Byte) (g : Flags) : flagsOf (putFlags f g) = g := by
  obtain ⟨s, z, h, pv, n, c⟩ := g
  cases s <;> cases z <;> cases h <;> cases pv <;> cases n <;> cases c <;>
    cases h5 : f.getLsbD 5 <;> cases h3 : f.getLsbD 3 <;> simp only [putFlags, h5, h3] <;> decide

@[simp] theorem putFlags_bit5 (f : Byte) (g : Flags) :
    (putFlags f g).getLsbD 5 = f.getLsbD 5 := by
  obtain ⟨s, z, h, pv, n, c⟩ := g
  cases s <;> cases z <;> cases h <;> cases pv <;> cases n <;> cases c <;>
    cases h5 : f.getLsbD 5 <;> cases h3 : f.getLsbD 3 <;> simp only [putFlags, h5, h3] <;> decide

@[simp] theorem putFlags_bit3 (f : Byte) (g : Flags) :
    (putFlags f g).getLsbD 3 = f.getLsbD 3 := by
  obtain ⟨s, z, h, pv, n, c⟩ := g
  cases s <;> cases z <;> cases h <;> cases pv <;> cases n <;> cases c <;>
    cases h5 : f.getLsbD 5 <;> cases h3 : f.getLsbD 3 <;> simp only [putFlags, h5, h3] <;> decide

theorem putFlags_bit0 (f : Byte) (g : Flags) : (putFlags f g).getLsbD 0 = g.c :=
  congrArg Flags.c (flagsOf_putFlags f g)

theorem putFlags_bit1 (f : Byte) (g : Flags) : (putFlags f g).getLsbD 1 = g.n :=
  congrArg Flags.n (flagsOf_putFlags f g)

theorem putFlags_bit2 (f : Byte) (g : Flags) : (putFlags f g).getLsbD 2 = g.pv :=
  congrArg Flags.pv (flagsOf_putFlags f g)

theorem putFlags_bit4 (f : Byte) (g : Flags) : (putFlags f g).getLsbD 4 = g.h :=
  congrArg Flags.h (flagsOf_putFlags f g)

theorem putFlags_bit6 (f : Byte) (g : Flags) : (putFlags f g).getLsbD 6 = g.z :=
  congrArg Flags.z (flagsOf_putFlags f g)

theorem putFlags_bit7 (f : Byte) (g : Flags) : (putFlags f g).getLsbD 7 = g.s :=
  congrArg Flags.s (flagsOf_putFlags f g)

/-- One bit of F is kept where the flag written there is the old one. -/
theorem putFlags_keeps (f : Byte) (g : Flags) (k : Nat) (h0 : k = 0 → g.c = f.getLsbD 0)
    (h1 : k = 1 → g.n = f.getLsbD 1) (h2 : k = 2 → g.pv = f.getLsbD 2)
    (h4 : k = 4 → g.h = f.getLsbD 4) (h6 : k = 6 → g.z = f.getLsbD 6)
    (h7 : k = 7 → g.s = f.getLsbD 7) : (putFlags f g).getLsbD k = f.getLsbD k := by
  by_cases hk : k < 8
  · interval_cases k
    · rw [putFlags_bit0, h0 rfl]
    · rw [putFlags_bit1, h1 rfl]
    · rw [putFlags_bit2, h2 rfl]
    · exact putFlags_bit3 f g
    · rw [putFlags_bit4, h4 rfl]
    · exact putFlags_bit5 f g
    · rw [putFlags_bit6, h6 rfl]
    · rw [putFlags_bit7, h7 rfl]
  · rw [BitVec.getLsbD_of_ge _ _ (by omega), BitVec.getLsbD_of_ge _ _ (by omega)]

/-- Writing back the flags a byte holds changes nothing. -/
theorem putFlags_flagsOf (f : Byte) : putFlags f (flagsOf f) = f := by
  revert f; decide

/-- What `setFlags` leaves: the flags, and bits 5 and 3. -/
theorem flagsAre_setFlags (s t : State) (g : Flags) (h : t.main.f = s.main.f) :
    FlagsAre s g (t.setFlags g) := by
  refine ⟨?_, ?_, ?_⟩
  · exact flagsOf_putFlags _ _
  · show (putFlags t.main.f g).getLsbD 5 = _
    rw [putFlags_bit5, h]
  · show (putFlags t.main.f g).getLsbD 3 = _
    rw [putFlags_bit3, h]

/-- The counted parity is the folded one. -/
theorem parity_eq_evenOnes (v : Byte) : parity v = evenOnes v := by
  revert v; decide

/-- `add8` as arithmetic on numbers. -/
theorem add8_spec (a v : Byte) (c : Bool) :
    (add8 a v c).1.toNat = (a.toNat + v.toNat + c.toNat) % 256
      ∧ (add8 a v c).2 = sumFlags a v c.toNat := by
  have ha := a.isLt; have hv := v.isLt
  have hc : c.toNat ≤ 1 := by cases c <;> decide
  refine ⟨by simp [add8], ?_⟩
  simp only [add8, sumFlags, byte_top, overflows, BitVec.toNat_ofNat, Flags.mk.injEq,
    BitVec.toInt_eq_toNat_cond, true_and, beq_eq_decide, bne, ← BitVec.toNat_inj]
  refine ⟨by simp, ?_⟩
  generalize c.toNat = k at *
  rw [Bool.eq_iff_iff]
  simp only [Bool.and_eq_true, Bool.not_eq_true', decide_eq_true_eq, decide_eq_false_iff_not,
    decide_eq_decide, and_true]
  split <;> split <;> omega

theorem sub8_res (a v : Byte) (c : Bool) :
    (sub8 a v c).1.toNat = (a.toNat + 512 - v.toNat - c.toNat) % 256 := by
  have ha := a.isLt; have hv := v.isLt
  have hc : c.toNat ≤ 1 := by cases c <;> decide
  simp only [sub8, BitVec.toNat_ofInt]
  omega

/-- `sub8` as arithmetic on numbers. -/
theorem sub8_spec (a v : Byte) (c : Bool) :
    (sub8 a v c).1.toNat = (a.toNat + 512 - v.toNat - c.toNat) % 256
      ∧ (sub8 a v c).2 = diffFlags a v c.toNat := by
  have ha := a.isLt; have hv := v.isLt
  have hc : c.toNat ≤ 1 := by cases c <;> decide
  have hr := sub8_res a v c
  refine ⟨hr, ?_⟩
  simp only [sub8] at hr
  simp only [sub8, diffFlags, byte_top, overflows, hr, Flags.mk.injEq,
    BitVec.toInt_eq_toNat_cond, true_and, beq_eq_decide, bne, ← BitVec.toNat_inj]
  refine ⟨by simp, ?_, by rw [decide_eq_decide]; omega⟩
  generalize c.toNat = k at *
  rw [Bool.eq_iff_iff]
  simp only [Bool.and_eq_true, Bool.not_eq_true', decide_eq_true_eq, decide_eq_false_iff_not,
    decide_eq_decide]
  split <;> split <;> omega

/-- `adc16` as arithmetic on numbers. -/
theorem adc16_spec (a v : Word) (c : Bool) :
    (adc16 a v c).1.toNat = (a.toNat + v.toNat + c.toNat) % 65536
      ∧ (adc16 a v c).2 = sumFlags16 a v c.toNat := by
  have ha := a.isLt; have hv := v.isLt
  have hc : c.toNat ≤ 1 := by cases c <;> decide
  refine ⟨by simp [adc16], ?_⟩
  simp only [adc16, sumFlags16, word_top, overflows, BitVec.toNat_ofNat, Flags.mk.injEq,
    BitVec.toInt_eq_toNat_cond, true_and, beq_eq_decide, bne, ← BitVec.toNat_inj]
  refine ⟨by simp, ?_⟩
  generalize c.toNat = k at *
  rw [Bool.eq_iff_iff]
  simp only [Bool.and_eq_true, Bool.not_eq_true', decide_eq_true_eq, decide_eq_false_iff_not,
    decide_eq_decide, and_true]
  split <;> split <;> omega

theorem sbc16_res (a v : Word) (c : Bool) :
    (sbc16 a v c).1.toNat = (a.toNat + 131072 - v.toNat - c.toNat) % 65536 := by
  have ha := a.isLt; have hv := v.isLt
  have hc : c.toNat ≤ 1 := by cases c <;> decide
  simp only [sbc16, BitVec.toNat_ofInt]
  omega

/-- `sbc16` as arithmetic on numbers. -/
theorem sbc16_spec (a v : Word) (c : Bool) :
    (sbc16 a v c).1.toNat = (a.toNat + 131072 - v.toNat - c.toNat) % 65536
      ∧ (sbc16 a v c).2 = diffFlags16 a v c.toNat := by
  have ha := a.isLt; have hv := v.isLt
  have hc : c.toNat ≤ 1 := by cases c <;> decide
  have hr := sbc16_res a v c
  refine ⟨hr, ?_⟩
  simp only [sbc16] at hr
  simp only [sbc16, diffFlags16, word_top, overflows, hr, Flags.mk.injEq,
    BitVec.toInt_eq_toNat_cond, true_and, beq_eq_decide, bne, ← BitVec.toNat_inj]
  refine ⟨by simp, ?_, by rw [decide_eq_decide]; omega⟩
  generalize c.toNat = k at *
  rw [Bool.eq_iff_iff]
  simp only [Bool.and_eq_true, Bool.not_eq_true', decide_eq_true_eq, decide_eq_false_iff_not,
    decide_eq_decide]
  split <;> split <;> omega

/-- `logic8` with the counted parity. -/
theorem logic8_spec (res : Byte) (h : Bool) : logic8 res h = logicFlags res h := by
  simp [logic8, logicFlags, parity_eq_evenOnes, beq_eq_decide]

/-- `byteFlags` with the counted parity. -/
theorem byteFlags_spec (v : Byte) (g : Flags) : byteFlags v g = arrivalFlags v g := by
  simp [byteFlags, arrivalFlags, parity_eq_evenOnes, beq_eq_decide]

/-- `shiftFlags` with the counted parity. -/
theorem shiftFlags_spec (v : Byte) (c : Bool) : shiftFlags v c = shiftedFlags v c := by
  simp [shiftFlags, shiftedFlags, parity_eq_evenOnes, beq_eq_decide]

end Machine

end Sys2Proof
end

