-- ==== Sys2Proof/Laws/Ops.lean ====
section
/-! SUPPORT. One lemma for each shared operation that says what it does in the terms of Safety.lean:
addresses, 8-bit arithmetic, shifts, bits, blocks, ports, calls. Proofs cite these and unfold no meaning. -/

namespace Sys2Proof.Machine

/-! ### Frames and rules -/

/-- A state keeps all of itself. -/
theorem Keeps.refl (s : State) (l : List Part) : Keeps l s s :=
  fun p _ => by cases p <;> simp [Part.same]

/-- An instruction that changes less changes no more. -/
theorem Keeps.mono {l m : List Part} {s t : State} (h : Keeps l s t) (hlm : ∀ p ∈ l, p ∈ m) :
    Keeps m s t :=
  fun p hp => h p fun hl => hp (hlm p hl)

/-- An instruction rule from its parts. -/
theorem Follows.intro {i : Instr} {bytes : List Byte} {m1 time : Nat} {s t : State}
    {changed : List Part} {after : State → Prop} (h1 : encode i = bytes) (h2 : i.m1 = m1)
    (h3 : cost i s = time) (he : exec i s = .next t) (hk : Keeps changed s t) (ha : after t) :
    Follows i bytes m1 time s changed after :=
  ⟨h1, h2, h3, t, he, hk, ha⟩

/-- The rule of an instruction that reaches memory, from its parts. -/
theorem Accesses.intro {i : Instr} {bytes : List Byte} {m1 time : Nat} {s t : State}
    {changed : List Part} {xs : List Config.MemAccess} {after : State → Prop} (h1 : encode i = bytes)
    (h2 : i.m1 = m1) (h3 : cost i s = time) (he : exec i s = .next t)
    (hk : Keeps (.memory :: changed) s t) (hm : t.mem = s.mem.after xs) (ha : after t) :
    Accesses i bytes m1 time s changed xs after :=
  ⟨h1, h2, h3, t, he, hk, accessed_of hm, ha⟩

/-- What `setFlags` leaves, for flags known by an equation. -/
theorem flagsAre_of {s t : State} {g g' : Flags} (h : t.main.f = s.main.f) (hg : g' = g) :
    FlagsAre s g (t.setFlags g') := by
  subst hg
  exact flagsAre_setFlags _ _ _ h

/-- The word that `MemRead(a, 2)` returns. -/
theorem wordAt_readWord (s : State) (a : Word) : WordAt s a (s.readWord a) := by
  simp [WordAt, State.readWord, answers, State.readByte, State.afterRead, Provider.after]

/-! ### Addresses -/

/-- The effective address is the signed displacement. -/
theorem ea_displaced (s : State) (x : Idx) (d : Byte) : s.ea x d = displaced (s.getIdx x) d := by
  apply BitVec.eq_of_toNat_eq
  simp only [State.ea, displaced, sext16, BitVec.toNat_add, BitVec.toNat_ofInt]
  have hd : (BitVec.signExtend 16 d).toNat = (d.toInt % 65536).toNat := by
    rw [← BitVec.toInt_signExtend_of_le (v := 16) (by decide : 8 ≤ 16)]
    have := (BitVec.signExtend 16 d).isLt
    rw [BitVec.toInt_eq_toNat_cond]
    split <;> omega
  rw [hd]
  have h1 : -128 ≤ d.toInt := by simpa using BitVec.le_toInt d
  have h2 : d.toInt < 128 := by simpa using BitVec.toInt_lt (x := d)
  omega

@[simp] theorem ea_ix (s : State) (d : Byte) : s.ea .ix d = displaced s.ix d := ea_displaced s .ix d

@[simp] theorem ea_iy (s : State) (d : Byte) : s.ea .iy d = displaced s.iy d := ea_displaced s .iy d

/-- The target of a relative jump is the signed displacement from PC. -/
theorem relTarget_displaced (s : State) (d : Byte) : s.relTarget d = displaced s.pc d :=
  ea_displaced { s with ix := s.pc } .ix d

/-! ### 8-bit arithmetic -/

/-- `inc8` is the sum with 1, C kept. -/
theorem inc8_spec (v : Byte) (c : Bool) :
    (inc8 v c).1 = v + 1 ∧ (inc8 v c).2 = { sumFlags v 1 0 with c := c } := by
  cases c <;> revert v <;> decide

/-- `dec8` is the difference with 1, C kept. -/
theorem dec8_spec (v : Byte) (c : Bool) :
    (dec8 v c).1 = v - 1 ∧ (dec8 v c).2 = { diffFlags v 1 0 with c := c } := by
  cases c <;> revert v <;> decide

theorem aluA_a (s : State) (op : AluOp) (v : Byte) :
    (s.aluA op v).main.a = (alu8 op s.main.a v s.flags.c).1 := rfl

theorem aluA_flags {s : State} {op : AluOp} {v : Byte} {g : Flags}
    (h : (alu8 op s.main.a v s.flags.c).2 = g) : FlagsAre s g (s.aluA op v) := by
  subst h
  exact flagsAre_setFlags _ _ _ rfl

theorem aluA_add (s : State) (v : Byte) : SumInA s v 0 (s.aluA .add v) :=
  ⟨(add8_spec s.main.a v false).1, aluA_flags (add8_spec s.main.a v false).2⟩

theorem aluA_adc (s : State) (v : Byte) : SumInA s v s.flags.c.toNat (s.aluA .adc v) :=
  ⟨(add8_spec s.main.a v _).1, aluA_flags (add8_spec s.main.a v _).2⟩

theorem aluA_sub (s : State) (v : Byte) : DiffInA s v 0 (s.aluA .sub v) :=
  ⟨(sub8_spec s.main.a v false).1, aluA_flags (sub8_spec s.main.a v false).2⟩

theorem aluA_sbc (s : State) (v : Byte) : DiffInA s v s.flags.c.toNat (s.aluA .sbc v) :=
  ⟨(sub8_spec s.main.a v _).1, aluA_flags (sub8_spec s.main.a v _).2⟩

theorem aluA_cp (s : State) (v : Byte) : FlagsAre s (diffFlags s.main.a v 0) (s.aluA .cp v) :=
  aluA_flags (sub8_spec s.main.a v false).2

theorem aluA_and (s : State) (v : Byte) : LogicInA s and v true (s.aluA .and v) :=
  ⟨fun i => by simp [aluA_a, alu8], aluA_flags (logic8_spec _ _)⟩

theorem aluA_or (s : State) (v : Byte) : LogicInA s or v false (s.aluA .or v) :=
  ⟨fun i => by simp [aluA_a, alu8], aluA_flags (logic8_spec _ _)⟩

theorem aluA_xor (s : State) (v : Byte) : LogicInA s xor v false (s.aluA .xor v) :=
  ⟨fun i => by simp [aluA_a, alu8], aluA_flags (logic8_spec _ _)⟩

/-- DAA as arithmetic on numbers. -/
theorem daa8_spec (a : Byte) (g : Flags) :
    (daa8 a g).1.toNat =
      (if g.n = true then a.toNat + 256
          - ((if g.h = true ∨ 9 < a.toNat % 16 then 6 else 0)
            + if g.c = true ∨ 0x99 < a.toNat then 0x60 else 0)
        else a.toNat + ((if g.h = true ∨ 9 < a.toNat % 16 then 6 else 0)
            + if g.c = true ∨ 0x99 < a.toNat then 0x60 else 0)) % 256 := by
  have := a.isLt
  simp only [daa8, Bool.or_eq_true, decide_eq_true_eq]
  cases g.n <;> simp <;> split_ifs <;> omega

/-! ### Shifts, digits, bits -/

theorem shift8_rlc (v : Byte) (c : Bool) :
    ShiftedUp v (shift8 .rlc v c).1 (v.getLsbD 7) ∧ (shift8 .rlc v c).2 = v.getLsbD 7 := by
  unfold ShiftedUp
  cases c <;> revert v <;> decide

theorem shift8_rl (v : Byte) (c : Bool) :
    ShiftedUp v (shift8 .rl v c).1 c ∧ (shift8 .rl v c).2 = v.getLsbD 7 := by
  unfold ShiftedUp
  cases c <;> revert v <;> decide

theorem shift8_sla (v : Byte) (c : Bool) :
    ShiftedUp v (shift8 .sla v c).1 false ∧ (shift8 .sla v c).2 = v.getLsbD 7 := by
  unfold ShiftedUp
  cases c <;> revert v <;> decide

theorem shift8_rrc (v : Byte) (c : Bool) :
    ShiftedDown v (shift8 .rrc v c).1 (v.getLsbD 0) ∧ (shift8 .rrc v c).2 = v.getLsbD 0 := by
  unfold ShiftedDown
  cases c <;> revert v <;> decide

theorem shift8_rr (v : Byte) (c : Bool) :
    ShiftedDown v (shift8 .rr v c).1 c ∧ (shift8 .rr v c).2 = v.getLsbD 0 := by
  unfold ShiftedDown
  cases c <;> revert v <;> decide

theorem shift8_sra (v : Byte) (c : Bool) :
    ShiftedDown v (shift8 .sra v c).1 (v.getLsbD 7) ∧ (shift8 .sra v c).2 = v.getLsbD 0 := by
  unfold ShiftedDown
  cases c <;> revert v <;> decide

theorem shift8_srl (v : Byte) (c : Bool) :
    ShiftedDown v (shift8 .srl v c).1 false ∧ (shift8 .srl v c).2 = v.getLsbD 0 := by
  unfold ShiftedDown
  cases c <;> revert v <;> decide

/-- The memory accesses of a place read and then written. -/
theorem rewrite_mem (s : State) (p : Place) (v : Byte) :
    ((s.afterLoad p).store p v).mem =
      match p with
      | .reg _ => s.mem
      | .atHL => s.mem.after [.read s.hl, .write s.hl v]
      | .atIdx x d =>
        s.mem.after [.read (displaced (s.getIdx x) d), .write (displaced (s.getIdx x) d) v] := by
  cases p with
  | reg r => simp [State.afterLoad, State.store]
  | atHL => rfl
  | atIdx x d =>
    simp only [← ea_displaced]
    cases x <;> rfl

/-- The register after a shift of it. -/
theorem shiftPlace_reg (s : State) (op : ShiftOp) (r : R8) :
    (s.shiftPlace op (.reg r)).getR8 r = (shift8 op (s.getR8 r) s.flags.c).1 := by
  simp [State.shiftPlace, State.afterLoad, State.load, State.store]

/-- The accesses of a shift of the byte at HL. -/
theorem shiftPlace_atHL (s : State) (op : ShiftOp) :
    (s.shiftPlace op .atHL).mem =
      s.mem.after [.read s.hl, .write s.hl (shift8 op (s.readByte s.hl) s.flags.c).1] :=
  rewrite_mem s .atHL _

/-- The accesses of a shift of an indexed byte. -/
theorem shiftPlace_atIdx (s : State) (op : ShiftOp) (x : Idx) (d : Byte) :
    (s.shiftPlace op (.atIdx x d)).mem =
      s.mem.after [.read (displaced (s.getIdx x) d),
        .write (displaced (s.getIdx x) d)
          (shift8 op (s.readByte (displaced (s.getIdx x) d)) s.flags.c).1] := by
  rw [← ea_displaced]
  cases x <;> rfl

theorem shiftPlace_flags {s : State} {op : ShiftOp} {p : Place} {g : Flags}
    (h : shiftFlags (shift8 op (s.load p) s.flags.c).1 (shift8 op (s.load p) s.flags.c).2 = g) :
    FlagsAre s g (s.shiftPlace op p) := by
  refine flagsAre_of ?_ h
  cases p <;> simp [State.store]

theorem rldBytes_spec (a v : Byte) :
    (rldBytes a v).1.toNat = a.toNat / 16 * 16 + v.toNat / 16
      ∧ (rldBytes a v).2.toNat = v.toNat % 16 * 16 + a.toNat % 16 := by
  have := a.isLt; have := v.isLt
  simp only [rldBytes, BitVec.toNat_append]
  rw [← Nat.shiftLeft_add_eq_or_of_lt (BitVec.isLt _),
    ← Nat.shiftLeft_add_eq_or_of_lt (BitVec.isLt _)]
  simp only [Nat.shiftLeft_eq, BitVec.extractLsb'_toNat, Nat.shiftRight_eq_div_pow]
  omega

theorem rrdBytes_spec (a v : Byte) :
    (rrdBytes a v).1.toNat = a.toNat / 16 * 16 + v.toNat % 16
      ∧ (rrdBytes a v).2.toNat = a.toNat % 16 * 16 + v.toNat / 16 := by
  have := a.isLt; have := v.isLt
  simp only [rrdBytes, BitVec.toNat_append]
  rw [← Nat.shiftLeft_add_eq_or_of_lt (BitVec.isLt _),
    ← Nat.shiftLeft_add_eq_or_of_lt (BitVec.isLt _)]
  simp only [Nat.shiftLeft_eq, BitVec.extractLsb'_toNat, Nat.shiftRight_eq_div_pow]
  omega

theorem bitMade_set (v : Byte) (b : BitVec 3) : BitMade v (v ||| bitMask b) b true := by
  unfold BitMade
  revert v b
  decide

theorem bitMade_res (v : Byte) (b : BitVec 3) : BitMade v (v &&& (255 - bitMask b)) b false := by
  unfold BitMade
  revert v b
  decide

/-! ### Conditions and counters -/

theorem condHolds_taken (s : State) (cc : Cond) : condHolds s.flags cc = decide (Taken s cc) := by
  cases cc <;> simp [condHolds, Taken, condBit, State.flags, flagsOf]

theorem flags_c (s : State) : s.flags.c = s.main.f.getLsbD 0 := rfl

theorem flags_z (s : State) : s.flags.z = s.main.f.getLsbD 6 := rfl

theorem word_pred_ne_zero (x : Word) : (x - 1 != 0) = decide (x ≠ 1) := by
  have h : (x - 1 = 0) ↔ x = 1 := by constructor <;> intro h <;> bv_omega
  by_cases hx : x = 1 <;> simp_all [bne]

theorem byte_pred_ne_zero (x : Byte) : (x - 1 != 0) = decide (x ≠ 1) := by
  have h : (x - 1 = 0) ↔ x = 1 := by constructor <;> intro h <;> bv_omega
  by_cases hx : x = 1 <;> simp_all [bne]

theorem byte_pred_eq_zero (x : Byte) : (x - 1 == 0) = decide (x = 1) := by
  have h : (x - 1 = 0) ↔ x = 1 := by constructor <;> intro h <;> bv_omega
  by_cases hx : x = 1 <;> simp_all

theorem copyAgain_eq (s : State) : s.copyAgain = decide (s.bc ≠ 1) := word_pred_ne_zero _

theorem compareAgain_eq (s : State) :
    s.compareAgain = decide (¬ (s.bc = 1 ∨ s.main.a = s.readByte s.hl)) := by
  simp only [State.compareAgain, word_pred_ne_zero]
  rw [Bool.eq_iff_iff]
  simp

theorem ioAgain_eq (s : State) : s.ioAgain = decide (s.main.b ≠ 1) := byte_pred_ne_zero _

/-! ### Blocks -/

@[simp] theorem repeatIf_hl (s : State) (b : Bool) : (s.repeatIf b).hl = s.hl := by simp [State.hl]

@[simp] theorem repeatIf_de (s : State) (b : Bool) : (s.repeatIf b).de = s.de := by simp [State.de]

@[simp] theorem repeatIf_bc (s : State) (b : Bool) : (s.repeatIf b).bc = s.bc := by simp [State.bc]

theorem repeatIf_flagsAre {s t : State} {g : Flags} (b : Bool) (h : FlagsAre s g t) :
    FlagsAre s g (t.repeatIf b) := by
  unfold State.repeatIf
  split
  · exact h
  · exact h

theorem blockCopy_flags (s : State) (dir : Direction) :
    FlagsAre s { s.flags with h := false, n := false, pv := decide (s.bc ≠ 1) }
      (s.blockCopy dir) :=
  flagsAre_of (by simp) (by rw [word_pred_ne_zero])

theorem blockCopy_mem (s : State) (dir : Direction) :
    (s.blockCopy dir).mem = s.mem.after [.read s.hl, .write s.de (s.readByte s.hl)] := rfl

theorem blockCopy_pairs (s : State) (dir : Direction) :
    (s.blockCopy dir).de = dir.step s.de ∧ (s.blockCopy dir).hl = dir.step s.hl
      ∧ (s.blockCopy dir).bc = s.bc - 1 := by
  simp [State.blockCopy, State.de, State.hl, State.bc, Regs.de, Regs.hl, Regs.bc]

theorem blockCompare_flags (s : State) (dir : Direction) :
    FlagsAre s { diffFlags s.main.a (s.readByte s.hl) 0 with
        pv := decide (s.bc ≠ 1), c := s.flags.c } (s.blockCompare dir) :=
  flagsAre_of (by simp) (by rw [word_pred_ne_zero, (sub8_spec _ _ _).2]; rfl)

theorem blockCompare_pairs (s : State) (dir : Direction) :
    (s.blockCompare dir).hl = dir.step s.hl ∧ (s.blockCompare dir).bc = s.bc - 1 := by
  simp [State.blockCompare, State.hl, State.bc, Regs.hl, Regs.bc]

/-! ### Ports -/

/-- A port read is what `ReadsPort` says. -/
theorem readsPort_of {s t : State} {p : Byte} (h : t.devices = (s.afterIoRead p).devices) :
    ReadsPort s p (s.ioValue p) t := by
  refine ⟨fun hn => ?_, fun id hid => ?_⟩
  · simp only [State.ioValue, State.afterIoRead, hn] at h ⊢
    exact ⟨trivial, h⟩
  · have hd : ∀ q, t.device q =
        (s.setDevice id (Device.afterRead id (s.device id))).device q := by
      intro q
      simp [State.device, h, State.afterIoRead, hid]
    simp only [hd, State.ioValue, hid]
    refine ⟨by simp [State.device, Device.afterRead], fun x rest hx => ?_, fun q hq => ?_⟩
    · refine ⟨by simp [Device.answer, hx], ?_⟩
      simp only [State.device, State.setDevice, tableGet_put_same, Option.getD_some,
        Device.afterRead]
      simpa [State.device] using congrArg List.tail hx
    · simp [State.device, tableGet_put_other _ _ hq]

/-- A port write is what `WritesPort` says. -/
theorem writesPort_of {s t : State} {p v : Byte} (h : t.devices = (s.ioWrite p v).devices) :
    WritesPort s p v t := by
  refine ⟨fun hn => ?_, fun id hid => ?_⟩
  · simp only [State.ioWrite, hn] at h
    exact h
  · have hd : ∀ q, t.device q = (s.setDevice id (Device.afterWrite (s.device id) v)).device q := by
      intro q
      simp [State.device, h, State.ioWrite, hid]
    simp only [hd]
    refine ⟨by simp [State.device, Device.afterWrite], by simp [State.device, Device.afterWrite],
      fun q hq => ?_⟩
    simp [State.device, tableGet_put_other _ _ hq]

theorem blockIoFlags_pred (b : Byte) (g : Flags) :
    blockIoFlags (b - 1) g = { g with z := decide (b = 1), n := true } := by
  unfold blockIoFlags
  rw [byte_pred_eq_zero]

/-- A port write does not depend on the registers. -/
theorem ioWrite_setR8_devices (s : State) (r : R8) (w p v : Byte) :
    ((s.setR8 r w).ioWrite p v).devices = (s.ioWrite p v).devices := by
  unfold State.ioWrite
  rw [setR8_ports]
  cases tableGet s.ports p.toNat <;> simp [State.device]

/-- A port write does not depend on memory. -/
theorem ioWrite_afterRead_devices (s : State) (a : Word) (p v : Byte) :
    ((s.afterRead a).ioWrite p v).devices = (s.ioWrite p v).devices := by
  unfold State.ioWrite
  rw [afterRead_ports]
  cases tableGet s.ports p.toNat <;> simp [State.device]

theorem blockIn_mem (s : State) (dir : Direction) :
    (s.blockIn dir).mem = s.mem.after [.write s.hl (s.ioValue s.main.c)] := by
  simp [State.blockIn]

theorem blockIn_up (s : State) : BlockInput s 1 (s.ioValue s.main.c) (s.blockIn .up) := by
  refine ⟨readsPort_of (by simp [State.blockIn]), ?_, by simp [State.blockIn],
    flagsAre_of (by simp) (blockIoFlags_pred _ _)⟩
  simp [State.blockIn, State.hl, Regs.hl]
  rfl

theorem blockIn_down (s : State) : BlockInput s (-1) (s.ioValue s.main.c) (s.blockIn .down) := by
  refine ⟨readsPort_of (by simp [State.blockIn]), ?_, by simp [State.blockIn],
    flagsAre_of (by simp) (blockIoFlags_pred _ _)⟩
  simp [State.blockIn, State.hl, Regs.hl, Direction.step]
  bv_omega

theorem blockOut_mem (s : State) (dir : Direction) :
    (s.blockOut dir).mem = s.mem.after [.read s.hl] := by
  simp [State.blockOut]

theorem blockOut_up (s : State) : BlockOutput s 1 (s.blockOut .up) := by
  refine ⟨?_, ?_, ?_, ?_⟩
  · exact writesPort_of (by simp [State.blockOut, ioWrite_setR8_devices, ioWrite_afterRead_devices])
  · simp [State.blockOut, State.hl, Regs.hl]
    rfl
  · simp [State.blockOut]
  · exact flagsAre_of (by simp) (blockIoFlags_pred _ _)

theorem blockOut_down (s : State) : BlockOutput s (-1) (s.blockOut .down) := by
  refine ⟨?_, ?_, ?_, ?_⟩
  · exact writesPort_of (by simp [State.blockOut, ioWrite_setR8_devices, ioWrite_afterRead_devices])
  · simp [State.blockOut, State.hl, Regs.hl, Direction.step]
    bv_omega
  · simp [State.blockOut]
  · exact flagsAre_of (by simp) (blockIoFlags_pred _ _)

theorem repeatIf_blockInput {s t : State} {dir : Word} {v : Byte} (b : Bool)
    (h : BlockInput s dir v t) : BlockInput s dir v (t.repeatIf b) := by
  unfold State.repeatIf
  split
  · exact h
  · exact h

theorem repeatIf_blockOutput {s t : State} {dir : Word} (b : Bool) (h : BlockOutput s dir t) :
    BlockOutput s dir (t.repeatIf b) := by
  unfold State.repeatIf
  split
  · exact h
  · exact h

/-! ### Calls and returns -/

theorem call_calledTo (s : State) (w : Word) : CalledTo s w (s.call w) := ⟨rfl, rfl⟩

/-- The accesses of a call are those of its push. -/
theorem call_mem (s : State) (w : Word) : (s.call w).mem = s.mem.after (pushed s s.pc) := rfl

theorem popPC_returnedFrom (s : State) : ReturnedFrom s s.popPC := ⟨wordAt_readWord s s.sp, rfl⟩

/-! ### R -/

/-- `IncR` as arithmetic on numbers. -/
theorem incR_toNat (r : Byte) :
    (incR r).toNat = r.toNat / 128 * 128 + (r.toNat % 128 + 1) % 128 := by
  revert r
  decide

end Sys2Proof.Machine
end

