-- ==== Sys2Proof/Laws/PerInstr.lean ====
section
/-! SUPPORT. The family of statements made per instruction: the length of an instruction's encoding
(30_encoding.md R120). -/

namespace Sys2Proof.Laws.EncodeLength

/-- The encoder writes as many bytes as the instruction is long. -/
def Statement (i : Instr) : Prop := (encode i).length = i.length

theorem ldRR (r : R8) (s : R8) : Statement (.ldRR r s) := rfl
theorem ldRN (r : R8) (n : Byte) : Statement (.ldRN r n) := rfl
theorem ldRHl (r : R8) : Statement (.ldRHl r) := rfl
theorem ldRIxD (r : R8) (d : Byte) : Statement (.ldRIxD r d) := rfl
theorem ldRIyD (r : R8) (d : Byte) : Statement (.ldRIyD r d) := rfl
theorem ldHlR (s : R8) : Statement (.ldHlR s) := rfl
theorem ldIxDR (s : R8) (d : Byte) : Statement (.ldIxDR s d) := rfl
theorem ldIyDR (s : R8) (d : Byte) : Statement (.ldIyDR s d) := rfl
theorem ldHlN (n : Byte) : Statement (.ldHlN n) := rfl
theorem ldIxDN (d : Byte) (n : Byte) : Statement (.ldIxDN d n) := rfl
theorem ldIyDN (d : Byte) (n : Byte) : Statement (.ldIyDN d n) := rfl
theorem ldABc : Statement .ldABc := rfl
theorem ldADe : Statement .ldADe := rfl
theorem ldANn (nn : Word) : Statement (.ldANn nn) := rfl
theorem ldBcA : Statement .ldBcA := rfl
theorem ldDeA : Statement .ldDeA := rfl
theorem ldNnA (nn : Word) : Statement (.ldNnA nn) := rfl
theorem ldAIreg : Statement .ldAIreg := rfl
theorem ldARreg : Statement .ldARreg := rfl
theorem ldIregA : Statement .ldIregA := rfl
theorem ldRregA : Statement .ldRregA := rfl
theorem ldDdNn (p : PairDd) (nn : Word) : Statement (.ldDdNn p nn) := rfl
theorem ldIxNn (nn : Word) : Statement (.ldIxNn nn) := rfl
theorem ldIyNn (nn : Word) : Statement (.ldIyNn nn) := rfl
theorem ldHlMem (nn : Word) : Statement (.ldHlMem nn) := rfl
theorem ldDdMem (p : PairDd) (nn : Word) : Statement (.ldDdMem p nn) := rfl
theorem ldIxMem (nn : Word) : Statement (.ldIxMem nn) := rfl
theorem ldIyMem (nn : Word) : Statement (.ldIyMem nn) := rfl
theorem ldMemHl (nn : Word) : Statement (.ldMemHl nn) := rfl
theorem ldMemDd (p : PairDd) (nn : Word) : Statement (.ldMemDd p nn) := rfl
theorem ldMemIx (nn : Word) : Statement (.ldMemIx nn) := rfl
theorem ldMemIy (nn : Word) : Statement (.ldMemIy nn) := rfl
theorem ldSpHl : Statement .ldSpHl := rfl
theorem ldSpIx : Statement .ldSpIx := rfl
theorem ldSpIy : Statement .ldSpIy := rfl
theorem pushQq (p : PairQq) : Statement (.pushQq p) := rfl
theorem pushIx : Statement .pushIx := rfl
theorem pushIy : Statement .pushIy := rfl
theorem popQq (p : PairQq) : Statement (.popQq p) := rfl
theorem popIx : Statement .popIx := rfl
theorem popIy : Statement .popIy := rfl
theorem exDeHl : Statement .exDeHl := rfl
theorem exAfAf : Statement .exAfAf := rfl
theorem exx : Statement .exx := rfl
theorem exSpHl : Statement .exSpHl := rfl
theorem exSpIx : Statement .exSpIx := rfl
theorem exSpIy : Statement .exSpIy := rfl
theorem ldi : Statement .ldi := rfl
theorem ldir : Statement .ldir := rfl
theorem ldd : Statement .ldd := rfl
theorem lddr : Statement .lddr := rfl
theorem cpi : Statement .cpi := rfl
theorem cpir : Statement .cpir := rfl
theorem cpd : Statement .cpd := rfl
theorem cpdr : Statement .cpdr := rfl
theorem addR (s : R8) : Statement (.addR s) := rfl
theorem addN (n : Byte) : Statement (.addN n) := rfl
theorem addHl : Statement .addHl := rfl
theorem addIxD (d : Byte) : Statement (.addIxD d) := rfl
theorem addIyD (d : Byte) : Statement (.addIyD d) := rfl
theorem adcR (s : R8) : Statement (.adcR s) := rfl
theorem adcN (n : Byte) : Statement (.adcN n) := rfl
theorem adcHl : Statement .adcHl := rfl
theorem adcIxD (d : Byte) : Statement (.adcIxD d) := rfl
theorem adcIyD (d : Byte) : Statement (.adcIyD d) := rfl
theorem subR (s : R8) : Statement (.subR s) := rfl
theorem subN (n : Byte) : Statement (.subN n) := rfl
theorem subHl : Statement .subHl := rfl
theorem subIxD (d : Byte) : Statement (.subIxD d) := rfl
theorem subIyD (d : Byte) : Statement (.subIyD d) := rfl
theorem sbcR (s : R8) : Statement (.sbcR s) := rfl
theorem sbcN (n : Byte) : Statement (.sbcN n) := rfl
theorem sbcHl : Statement .sbcHl := rfl
theorem sbcIxD (d : Byte) : Statement (.sbcIxD d) := rfl
theorem sbcIyD (d : Byte) : Statement (.sbcIyD d) := rfl
theorem andR (s : R8) : Statement (.andR s) := rfl
theorem andN (n : Byte) : Statement (.andN n) := rfl
theorem andHl : Statement .andHl := rfl
theorem andIxD (d : Byte) : Statement (.andIxD d) := rfl
theorem andIyD (d : Byte) : Statement (.andIyD d) := rfl
theorem orR (s : R8) : Statement (.orR s) := rfl
theorem orN (n : Byte) : Statement (.orN n) := rfl
theorem orHl : Statement .orHl := rfl
theorem orIxD (d : Byte) : Statement (.orIxD d) := rfl
theorem orIyD (d : Byte) : Statement (.orIyD d) := rfl
theorem xorR (s : R8) : Statement (.xorR s) := rfl
theorem xorN (n : Byte) : Statement (.xorN n) := rfl
theorem xorHl : Statement .xorHl := rfl
theorem xorIxD (d : Byte) : Statement (.xorIxD d) := rfl
theorem xorIyD (d : Byte) : Statement (.xorIyD d) := rfl
theorem cpR (s : R8) : Statement (.cpR s) := rfl
theorem cpN (n : Byte) : Statement (.cpN n) := rfl
theorem cpHl : Statement .cpHl := rfl
theorem cpIxD (d : Byte) : Statement (.cpIxD d) := rfl
theorem cpIyD (d : Byte) : Statement (.cpIyD d) := rfl
theorem incR (r : R8) : Statement (.incR r) := rfl
theorem incHl : Statement .incHl := rfl
theorem incIxD (d : Byte) : Statement (.incIxD d) := rfl
theorem incIyD (d : Byte) : Statement (.incIyD d) := rfl
theorem decR (r : R8) : Statement (.decR r) := rfl
theorem decHl : Statement .decHl := rfl
theorem decIxD (d : Byte) : Statement (.decIxD d) := rfl
theorem decIyD (d : Byte) : Statement (.decIyD d) := rfl
theorem daa : Statement .daa := rfl
theorem cpl : Statement .cpl := rfl
theorem neg : Statement .neg := rfl
theorem ccf : Statement .ccf := rfl
theorem scf : Statement .scf := rfl
theorem nop : Statement .nop := rfl
theorem halt : Statement .halt := rfl
theorem di : Statement .di := rfl
theorem ei : Statement .ei := rfl
theorem im0 : Statement .im0 := rfl
theorem im1 : Statement .im1 := rfl
theorem im2 : Statement .im2 := rfl
theorem addHlSs (p : PairDd) : Statement (.addHlSs p) := rfl
theorem adcHlSs (p : PairDd) : Statement (.adcHlSs p) := rfl
theorem sbcHlSs (p : PairDd) : Statement (.sbcHlSs p) := rfl
theorem addIxPp (p : PairPp) : Statement (.addIxPp p) := rfl
theorem addIyRr (p : PairPp) : Statement (.addIyRr p) := rfl
theorem incSs (p : PairDd) : Statement (.incSs p) := rfl
theorem incIx : Statement .incIx := rfl
theorem incIy : Statement .incIy := rfl
theorem decSs (p : PairDd) : Statement (.decSs p) := rfl
theorem decIx : Statement .decIx := rfl
theorem decIy : Statement .decIy := rfl
theorem rlca : Statement .rlca := rfl
theorem rla : Statement .rla := rfl
theorem rrca : Statement .rrca := rfl
theorem rra : Statement .rra := rfl
theorem rlcR (s : R8) : Statement (.rlcR s) := rfl
theorem rlcHl : Statement .rlcHl := rfl
theorem rlcIxD (d : Byte) : Statement (.rlcIxD d) := rfl
theorem rlcIyD (d : Byte) : Statement (.rlcIyD d) := rfl
theorem rlR (s : R8) : Statement (.rlR s) := rfl
theorem rlHl : Statement .rlHl := rfl
theorem rlIxD (d : Byte) : Statement (.rlIxD d) := rfl
theorem rlIyD (d : Byte) : Statement (.rlIyD d) := rfl
theorem rrcR (s : R8) : Statement (.rrcR s) := rfl
theorem rrcHl : Statement .rrcHl := rfl
theorem rrcIxD (d : Byte) : Statement (.rrcIxD d) := rfl
theorem rrcIyD (d : Byte) : Statement (.rrcIyD d) := rfl
theorem rrR (s : R8) : Statement (.rrR s) := rfl
theorem rrHl : Statement .rrHl := rfl
theorem rrIxD (d : Byte) : Statement (.rrIxD d) := rfl
theorem rrIyD (d : Byte) : Statement (.rrIyD d) := rfl
theorem slaR (s : R8) : Statement (.slaR s) := rfl
theorem slaHl : Statement .slaHl := rfl
theorem slaIxD (d : Byte) : Statement (.slaIxD d) := rfl
theorem slaIyD (d : Byte) : Statement (.slaIyD d) := rfl
theorem sraR (s : R8) : Statement (.sraR s) := rfl
theorem sraHl : Statement .sraHl := rfl
theorem sraIxD (d : Byte) : Statement (.sraIxD d) := rfl
theorem sraIyD (d : Byte) : Statement (.sraIyD d) := rfl
theorem srlR (s : R8) : Statement (.srlR s) := rfl
theorem srlHl : Statement .srlHl := rfl
theorem srlIxD (d : Byte) : Statement (.srlIxD d) := rfl
theorem srlIyD (d : Byte) : Statement (.srlIyD d) := rfl
theorem rld : Statement .rld := rfl
theorem rrd : Statement .rrd := rfl
theorem bitR (b : BitVec 3) (s : R8) : Statement (.bitR b s) := rfl
theorem bitHl (b : BitVec 3) : Statement (.bitHl b) := rfl
theorem bitIxD (b : BitVec 3) (d : Byte) : Statement (.bitIxD b d) := rfl
theorem bitIyD (b : BitVec 3) (d : Byte) : Statement (.bitIyD b d) := rfl
theorem setR (b : BitVec 3) (s : R8) : Statement (.setR b s) := rfl
theorem setHl (b : BitVec 3) : Statement (.setHl b) := rfl
theorem setIxD (b : BitVec 3) (d : Byte) : Statement (.setIxD b d) := rfl
theorem setIyD (b : BitVec 3) (d : Byte) : Statement (.setIyD b d) := rfl
theorem resR (b : BitVec 3) (s : R8) : Statement (.resR b s) := rfl
theorem resHl (b : BitVec 3) : Statement (.resHl b) := rfl
theorem resIxD (b : BitVec 3) (d : Byte) : Statement (.resIxD b d) := rfl
theorem resIyD (b : BitVec 3) (d : Byte) : Statement (.resIyD b d) := rfl
theorem jpNn (nn : Word) : Statement (.jpNn nn) := rfl
theorem jpCcNn (cc : Cond) (nn : Word) : Statement (.jpCcNn cc nn) := rfl
theorem jr (e : Byte) : Statement (.jr e) := rfl
theorem jrC (e : Byte) : Statement (.jrC e) := rfl
theorem jrNc (e : Byte) : Statement (.jrNc e) := rfl
theorem jrZ (e : Byte) : Statement (.jrZ e) := rfl
theorem jrNz (e : Byte) : Statement (.jrNz e) := rfl
theorem jpHl : Statement .jpHl := rfl
theorem jpIx : Statement .jpIx := rfl
theorem jpIy : Statement .jpIy := rfl
theorem djnz (e : Byte) : Statement (.djnz e) := rfl
theorem callNn (nn : Word) : Statement (.callNn nn) := rfl
theorem callCcNn (cc : Cond) (nn : Word) : Statement (.callCcNn cc nn) := rfl
theorem ret : Statement .ret := rfl
theorem retCc (cc : Cond) : Statement (.retCc cc) := rfl
theorem reti : Statement .reti := rfl
theorem retn : Statement .retn := rfl
theorem rst (t : BitVec 3) : Statement (.rst t) := rfl
theorem inAN (n : Byte) : Statement (.inAN n) := rfl
theorem inRC (r : R8) : Statement (.inRC r) := rfl
theorem ini : Statement .ini := rfl
theorem inir : Statement .inir := rfl
theorem ind : Statement .ind := rfl
theorem indr : Statement .indr := rfl
theorem outNA (n : Byte) : Statement (.outNA n) := rfl
theorem outCR (s : R8) : Statement (.outCR s) := rfl
theorem outi : Statement .outi := rfl
theorem otir : Statement .otir := rfl
theorem outd : Statement .outd := rfl
theorem otdr : Statement .otdr := rfl
theorem nopEd (op : Byte) : Statement (.nopEd op) := rfl
theorem nopCb (s : BitVec 3) : Statement (.nopCb s) := rfl
theorem nopDd : Statement .nopDd := rfl
theorem nopDdCb (d : Byte) (op : Byte) : Statement (.nopDdCb d op) := rfl
theorem nopFd : Statement .nopFd := rfl
theorem nopFdCb (d : Byte) (op : Byte) : Statement (.nopFdCb d op) := rfl

end Sys2Proof.Laws.EncodeLength
end

