-- ==== Sys2Proof/Laws/Step.lean ====
section
/-! SUPPORT. What a step can be: its three iterations, and what each leaves alone. -/

namespace Sys2Proof.Machine

/-- A running machine's step is its iteration. -/
theorem step_running {s : State} (h : s.Running) : step s = s.iteration := by
  simp [step, h.live, h.memory, h.notHung, h.lock]

/-- A step that gives a next state was an iteration of a running machine. -/
theorem step_next {s : State} {t : State} (h : step s = .next t) :
    s.Running ∧ s.iteration = .next t := by
  unfold step at h
  split at h
  · cases h
  · rename_i hl
    split at h
    · cases h
    · rename_i hm
      split at h
      · cases h
      · rename_i hh
        split at h
        · cases h
        · cases h
        · cases h
        · rename_i hlock
          exact ⟨⟨hl, by simpa using hm, by simpa using hh, hlock⟩, h⟩

/-- An accepting iteration. -/
theorem iteration_accepts {s : State} (h : s.accepts = true) :
    s.iteration = { s with eiDelay := false }.accept := by
  simp [State.iteration, h]

/-- A halted idle iteration. -/
theorem iteration_idle {s : State} (h : s.accepts = false) (hh : s.halted = true) :
    s.iteration = .next { s with eiDelay := false }.haltedIdle := by
  simp [State.iteration, h, hh]

/-- An iteration that runs the instruction at PC. -/
theorem iteration_runs {s : State} (h : s.accepts = false) (hh : s.halted = false) :
    s.iteration = exec s.fetched { s with eiDelay := false }.afterFetch := by
  unfold State.iteration
  rw [h, hh]
  rfl

/-- The acceptance condition, in full (60_exceptions.md R354). -/
theorem accepts_iff (s : State) :
    s.accepts = true ↔ s.iff1 = true ∧ s.eiDelay = false ∧ s.icPending = true := by
  simp [State.accepts, and_assoc]

theorem looksAhead_eq (b0 : Byte) : looksAhead b0 = decide (b0 = 0xDD ∨ b0 = 0xFD) := by
  rw [looksAhead, Bool.eq_iff_iff]
  simp

/-- The reads past the first byte, as the statements list them. -/
theorem tailReads_eq (i : Instr) (b0 : Byte) (a : Word) :
    tailReads i b0 a = furtherReads b0 a (i.length - 1) := by
  simp [tailReads, furtherReads, looksAhead_eq]

/-- Decoding is right about each byte it takes and nothing else: the bytes are the provider's answers. -/
theorem goesOn_iff (s : State) (b0 : Byte) (before : List Config.MemAccess) (a : Word) (i : Instr) :
    GoesOn s b0 before a i ↔ (s.mem.after before).instruction b0 a = i := by
  simp only [GoesOn, answers, Provider.instruction, looksAhead_eq, decide_eq_true_eq]
  constructor
  · rintro ⟨b1, b2, b3, xs, rfl, rfl, rfl, rfl, rfl⟩
    split <;> simp only [Provider.after_append] <;> rfl
  · rintro rfl
    refine ⟨_, _, _, _, rfl, rfl, rfl, rfl, ?_⟩
    split <;> simp only [Provider.after_append] <;> rfl

theorem fetches_iff (s : State) (i : Instr) : Fetches s i ↔ s.fetched = i :=
  goesOn_iff s (s.readByte s.pc) [.read s.pc] (s.pc + 1) i

theorem injects_iff (s : State) (i : Instr) : Injects s i ↔ s.injected s.icBus = i :=
  goesOn_iff s s.icBus [] s.pc i

/-- The reads of a fetch, as the statements list them. -/
theorem fetchReads_eq (s : State) :
    s.fetchReads =
      .read s.pc :: furtherReads (s.readByte s.pc) (s.pc + 1) (s.fetched.length - 1) := by
  rw [State.fetchReads, tailReads_eq]
  rfl

/-- How many reads a fetch makes past its first byte (20_memory.md R78). -/
theorem furtherReads_length (b0 : Byte) (a : Word) (n : Nat) :
    (furtherReads b0 a n).length = n + if b0 = 0xDD ∨ b0 = 0xFD then 1 else 0 := by
  unfold furtherReads
  split <;> simp

/-- `n` increments of R change R alone. -/
theorem advanceR_eq (s : State) (n : Nat) : s.advanceR n = { s with rReg := (s.advanceR n).rReg } := by
  induction n generalizing s with
  | zero => rfl
  | succ n ih =>
    show State.advanceR { s with rReg := incR s.rReg } n = _
    rw [ih]
    rfl

/-- R after `n` increments depends on R alone. -/
theorem advanceR_rReg_congr {s t : State} (h : s.rReg = t.rReg) (n : Nat) :
    (s.advanceR n).rReg = (t.advanceR n).rReg := by
  induction n generalizing s t with
  | zero => exact h
  | succ n ih => exact ih (by simp [h])

/-- R after the opcode fetches of an instruction. -/
theorem advanceR_m1 (s : State) (i : Instr) :
    (s.advanceR i.m1).rReg = if i.m1 = 1 then incR s.rReg else incR (incR s.rReg) := by
  have h : i.m1 = 1 ∨ i.m1 = 2 := by
    unfold Instr.m1
    cases i.format <;> decide
  rcases h with h | h <;> rw [h] <;> rfl

/-- The state an instruction's operation runs in, in full. -/
theorem advance_eq (s : State) (reads : List Config.MemAccess) (n m1 : Nat) :
    s.advance reads n m1 = { s with
      mem := s.mem.after reads
      pc := s.pc + BitVec.ofNat 16 n
      rReg := (s.advanceR m1).rReg
      wz := Config.wzScratch s.wzSeq
      wzSeq := s.wzSeq + 1 } := by
  have h := advanceR_eq ({ s with mem := s.mem.after reads }.setPC (s.pc + BitVec.ofNat 16 n)) m1
  have hr := advanceR_rReg_congr
    (s := { s with mem := s.mem.after reads }.setPC (s.pc + BitVec.ofNat 16 n)) (t := s) rfl m1
  rw [State.advance, h, hr]
  rfl

/-- A mode 1 acceptance in full: the return address pushed, PC at 0x0038, R counted once. -/
theorem acceptMode1_eq (s : State) :
    s.acceptMode1 =
      { s with
        mem := s.mem.after (pushed s s.pc), sp := s.sp - 2, pc := 0x0038, rReg := incR s.rReg } :=
  rfl

/-- PC pushed, then loaded from the word at `va`. -/
theorem vectoredCall_eq (s : State) (va : Word) :
    ((s.push s.pc).afterReadWord va).setPC ((s.push s.pc).readWord va) =
      { s with
        mem := s.mem.after (pushed s s.pc ++ [.read va, .read (va + 1)])
        sp := s.sp - 2
        pc := wordOf (answers s (pushed s s.pc) va)
          (answers s (pushed s s.pc ++ [.read va]) (va + 1)) } := by
  simp only [State.setPC, State.afterReadWord, State.afterRead, State.push, State.setSP,
    State.writeByte, pushed, answers, State.readWord, State.readByte, Provider.after_cons,
    Provider.after_nil, List.cons_append, List.nil_append]

/-- A mode 2 acceptance in full: the target is read after the push, low byte first. -/
theorem acceptMode2_eq (s : State) (va : Word) (h : va = wordOf s.icBus s.iReg) :
    s.acceptMode2 =
      { s with
        mem := s.mem.after (pushed s s.pc ++ [.read va, .read (va + 1)])
        sp := s.sp - 2
        pc := wordOf (answers s (pushed s s.pc) va)
          (answers s (pushed s s.pc ++ [.read va]) (va + 1))
        rReg := incR s.rReg } := by
  subst h
  exact vectoredCall_eq { s with rReg := incR s.rReg } _

/-- A halted idle period counts R and does nothing else. -/
theorem haltedIdle_eq (s : State) : s.haltedIdle = { s with rReg := incR s.rReg } := rfl

/-- The state after the common part of an acceptance. -/
theorem acceptCommon_eq (s : State) :
    { s with eiDelay := false }.acceptCommon =
      { s with
        eiDelay := false, icPending := false, iff1 := false, iff2 := false, halted := false } := rfl

/-- A mode 0 acceptance runs the injected instruction. -/
theorem iteration_mode0 {s : State} (h : s.accepts = true) (hm : s.im = .im0) :
    s.iteration = exec (s.injected s.icBus)
      ({ s with eiDelay := false }.acceptCommon.advance (s.injectReads s.icBus)
        ((s.injected s.icBus).length - 1) (s.injected s.icBus).m1) := by
  rw [iteration_accepts h]
  unfold State.accept
  rw [hm]
  rfl

/-- A mode 1 acceptance. -/
theorem iteration_mode1 {s : State} (h : s.accepts = true) (hm : s.im = .im1) :
    s.iteration = .next { s with eiDelay := false }.acceptCommon.acceptMode1 := by
  rw [iteration_accepts h]
  unfold State.accept
  rw [hm]

/-- A mode 2 acceptance. -/
theorem iteration_mode2 {s : State} (h : s.accepts = true) (hm : s.im = .im2) :
    s.iteration = .next { s with eiDelay := false }.acceptCommon.acceptMode2 := by
  rw [iteration_accepts h]
  unfold State.accept
  rw [hm]

/-- Every instruction has one opcode fetch or two. -/
theorem m1_cases (i : Instr) : i.m1 = 1 ∨ i.m1 = 2 := by
  unfold Instr.m1
  cases i.format <;> decide

/-! ### The Core among other agents -/

/-- A schedule in two parts. -/
theorem reacts_append (u : System) (es fs : List Event) :
    u.reacts (es ++ fs) = (u.reacts es).bind (·.reacts fs) := by
  induction es generalizing u with
  | nil => rfl
  | cons e es ih =>
    simp only [List.cons_append, System.reacts]
    cases u.react e with
    | none => rfl
    | some t => exact ih t

/-- An acquire that wins takes the lock and changes nothing else. -/
theorem acquire_won {s t : State} {a : Agent} {m : Shape} (h : s.acquire a m = .won t) :
    t = { s with icLock := .held a } := by
  unfold State.acquire at h
  split at h
  · cases h
  · split at h
    · cases h
    · cases h; rfl
    · cases h
    · split at h <;> cases h

/-- WHAT ONE EVENT CAN DO TO THE STATE: nothing, a step of the Core, an acquire that wins, a post, a
clear. -/
theorem react_state {u v : System} {e : Event} (h : u.react e = some v) :
    v.state = u.state ∨ step u.state = .next v.state
      ∨ (∃ k, v.state = { u.state with icLock := .held (.poster k) })
      ∨ (∃ bus, v.state = (u.state.postHeld bus).2) ∨ v.state = u.state.clearHeld.2 := by
  cases e with
  | execute b =>
    refine .inl ?_
    simp only [System.react, System.startCall] at h
    split at h
    · cases h
    · split at h
      · cases h; rfl
      · split at h <;> cases h <;> rfl
  | core =>
    simp only [System.react, System.coreStep] at h
    split at h
    · cases h
    · split at h
      · cases h; exact .inl rfl
      · split at h
        · rename_i t ht
          cases h
          exact .inr (.inl ht)
        · rename_i f _
          cases hf : f.errorKind with
          | none => rw [hf] at h; cases h
          | some e => rw [hf] at h; cases h; exact .inl rfl
        · cases h
  | acquire k m =>
    simp only [System.react] at h
    split at h
    · rename_i t ht
      cases h
      exact .inr (.inr (.inl ⟨k, acquire_won ht⟩))
    · cases h; exact .inl rfl
    · cases h
  | post k bus =>
    simp only [System.react] at h
    split at h
    · cases h; exact .inr (.inr (.inr (.inl ⟨bus, rfl⟩)))
    · cases h
  | clear k =>
    simp only [System.react] at h
    split at h
    · cases h; exact .inr (.inr (.inr (.inr rfl)))
    · cases h

end Sys2Proof.Machine
end

