-- ==== Sys2Proof/Tests/Slice0.lean ====
section
/-! SUPPORT. The model's own tests: the checks of WellFormed, decoding of bytes written out from the
encodings of spec/, one step of the vectors of spec/95_test_vectors.md, and a witness for the hypotheses of
every obligation. -/

namespace Sys2Proof.Tests

open Sys2Proof.Machine

/-! ### WellFormed: each check refuses an ill-formed term -/

theorem test_wellFormed_ed :
    (Instr.nopEd 0x44).wellFormed = false ∧ (Instr.nopEd 0x45).wellFormed = false ∧
    (Instr.nopEd 0x70).wellFormed = true := by
  decide

theorem test_wellFormed_dd_cb :
    (Instr.nopDdCb 0x05 0x06).wellFormed = false ∧ (Instr.nopDdCb 0x05 0x47).wellFormed = true := by
  decide

theorem test_wellFormed_fd_cb :
    (Instr.nopFdCb 0x05 0x86).wellFormed = false ∧ (Instr.nopFdCb 0x05 0x36).wellFormed = true := by
  decide

/-! ### Decoding

The bytes are those of the spec's own examples, one for each row of the opcode table. -/

/-- Byte loads: the bytes of the Example of each rule R130 to R150. -/
theorem test_decode_byte_loads :
    decode [0x41] = .ok (.ldRR .b .c, []) ∧
    decode [0x3E, 0x7F] = .ok (.ldRN .a 0x7F, []) ∧
    decode [0x7E] = .ok (.ldRHl .a, []) ∧
    decode [0xDD, 0x46, 0xFE] = .ok (.ldRIxD .b 0xFE, []) ∧
    decode [0xFD, 0x46, 0xFE] = .ok (.ldRIyD .b 0xFE, []) ∧
    decode [0x70] = .ok (.ldHlR .b, []) ∧
    decode [0xDD, 0x71, 0x05] = .ok (.ldIxDR .c 0x05, []) ∧
    decode [0xFD, 0x71, 0x05] = .ok (.ldIyDR .c 0x05, []) ∧
    decode [0x36, 0x28] = .ok (.ldHlN 0x28, []) ∧
    decode [0xDD, 0x36, 0xFF, 0x5A] = .ok (.ldIxDN 0xFF 0x5A, []) ∧
    decode [0xFD, 0x36, 0xFF, 0x5A] = .ok (.ldIyDN 0xFF 0x5A, []) ∧
    decode [0x0A] = .ok (.ldABc, []) ∧
    decode [0x1A] = .ok (.ldADe, []) ∧
    decode [0x3A, 0x32, 0x88] = .ok (.ldANn 0x8832, []) ∧
    decode [0x02] = .ok (.ldBcA, []) ∧
    decode [0x12] = .ok (.ldDeA, []) ∧
    decode [0x32, 0x41, 0x31] = .ok (.ldNnA 0x3141, []) ∧
    decode [0xED, 0x57] = .ok (.ldAIreg, []) ∧
    decode [0xED, 0x5F] = .ok (.ldARreg, []) ∧
    decode [0xED, 0x47] = .ok (.ldIregA, []) ∧
    decode [0xED, 0x4F] = .ok (.ldRregA, []) :=
  ⟨rfl, rfl, rfl, rfl, rfl, rfl, rfl, rfl, rfl, rfl, rfl, rfl, rfl, rfl, rfl, rfl, rfl, rfl, rfl,
  rfl, rfl⟩

/-- Word loads: the bytes of the Example of each rule R151 to R170. -/
theorem test_decode_word_loads :
    decode [0x21, 0x00, 0x50] = .ok (.ldDdNn .hl 0x5000, []) ∧
    decode [0xDD, 0x21, 0xA2, 0x45] = .ok (.ldIxNn 0x45A2, []) ∧
    decode [0xFD, 0x21, 0xA2, 0x45] = .ok (.ldIyNn 0x45A2, []) ∧
    decode [0x2A, 0x45, 0x45] = .ok (.ldHlMem 0x4545, []) ∧
    decode [0xED, 0x4B, 0x30, 0x21] = .ok (.ldDdMem .bc 0x2130, []) ∧
    decode [0xDD, 0x2A, 0x66, 0x66] = .ok (.ldIxMem 0x6666, []) ∧
    decode [0xFD, 0x2A, 0x66, 0x66] = .ok (.ldIyMem 0x6666, []) ∧
    decode [0x22, 0x29, 0xB2] = .ok (.ldMemHl 0xB229, []) ∧
    decode [0xED, 0x43, 0x00, 0x10] = .ok (.ldMemDd .bc 0x1000, []) ∧
    decode [0xDD, 0x22, 0x92, 0x43] = .ok (.ldMemIx 0x4392, []) ∧
    decode [0xFD, 0x22, 0x92, 0x43] = .ok (.ldMemIy 0x4392, []) ∧
    decode [0xF9] = .ok (.ldSpHl, []) ∧
    decode [0xDD, 0xF9] = .ok (.ldSpIx, []) ∧
    decode [0xFD, 0xF9] = .ok (.ldSpIy, []) ∧
    decode [0xF5] = .ok (.pushQq .af, []) ∧
    decode [0xDD, 0xE5] = .ok (.pushIx, []) ∧
    decode [0xFD, 0xE5] = .ok (.pushIy, []) ∧
    decode [0xE1] = .ok (.popQq .hl, []) ∧
    decode [0xDD, 0xE1] = .ok (.popIx, []) ∧
    decode [0xFD, 0xE1] = .ok (.popIy, []) :=
  ⟨rfl, rfl, rfl, rfl, rfl, rfl, rfl, rfl, rfl, rfl, rfl, rfl, rfl, rfl, rfl, rfl, rfl, rfl, rfl,
  rfl⟩

/-- Exchanges and blocks: the bytes of the Example of each rule R171 to R184. -/
theorem test_decode_exchanges_and_blocks :
    decode [0xEB] = .ok (.exDeHl, []) ∧
    decode [0x08] = .ok (.exAfAf, []) ∧
    decode [0xD9] = .ok (.exx, []) ∧
    decode [0xE3] = .ok (.exSpHl, []) ∧
    decode [0xDD, 0xE3] = .ok (.exSpIx, []) ∧
    decode [0xFD, 0xE3] = .ok (.exSpIy, []) ∧
    decode [0xED, 0xA0] = .ok (.ldi, []) ∧
    decode [0xED, 0xB0] = .ok (.ldir, []) ∧
    decode [0xED, 0xA8] = .ok (.ldd, []) ∧
    decode [0xED, 0xB8] = .ok (.lddr, []) ∧
    decode [0xED, 0xA1] = .ok (.cpi, []) ∧
    decode [0xED, 0xB1] = .ok (.cpir, []) ∧
    decode [0xED, 0xA9] = .ok (.cpd, []) ∧
    decode [0xED, 0xB9] = .ok (.cpdr, []) :=
  ⟨rfl, rfl, rfl, rfl, rfl, rfl, rfl, rfl, rfl, rfl, rfl, rfl, rfl, rfl⟩

/-- Add and sub: the bytes of the Example of each rule R185 to R204. -/
theorem test_decode_add_and_sub :
    decode [0x80] = .ok (.addR .b, []) ∧
    decode [0xC6, 0x11] = .ok (.addN 0x11, []) ∧
    decode [0x86] = .ok (.addHl, []) ∧
    decode [0xDD, 0x86, 0x05] = .ok (.addIxD 0x05, []) ∧
    decode [0xFD, 0x86, 0x05] = .ok (.addIyD 0x05, []) ∧
    decode [0x88] = .ok (.adcR .b, []) ∧
    decode [0xCE, 0x10] = .ok (.adcN 0x10, []) ∧
    decode [0x8E] = .ok (.adcHl, []) ∧
    decode [0xDD, 0x8E, 0x05] = .ok (.adcIxD 0x05, []) ∧
    decode [0xFD, 0x8E, 0x05] = .ok (.adcIyD 0x05, []) ∧
    decode [0x90] = .ok (.subR .b, []) ∧
    decode [0xD6, 0x11] = .ok (.subN 0x11, []) ∧
    decode [0x96] = .ok (.subHl, []) ∧
    decode [0xDD, 0x96, 0x05] = .ok (.subIxD 0x05, []) ∧
    decode [0xFD, 0x96, 0x05] = .ok (.subIyD 0x05, []) ∧
    decode [0x98] = .ok (.sbcR .b, []) ∧
    decode [0xDE, 0x05] = .ok (.sbcN 0x05, []) ∧
    decode [0x9E] = .ok (.sbcHl, []) ∧
    decode [0xDD, 0x9E, 0x05] = .ok (.sbcIxD 0x05, []) ∧
    decode [0xFD, 0x9E, 0x05] = .ok (.sbcIyD 0x05, []) :=
  ⟨rfl, rfl, rfl, rfl, rfl, rfl, rfl, rfl, rfl, rfl, rfl, rfl, rfl, rfl, rfl, rfl, rfl, rfl, rfl,
  rfl⟩

/-- Logic and compare: the bytes of the Example of each rule R205 to R224. -/
theorem test_decode_logic_and_compare :
    decode [0xA0] = .ok (.andR .b, []) ∧
    decode [0xE6, 0x7B] = .ok (.andN 0x7B, []) ∧
    decode [0xA6] = .ok (.andHl, []) ∧
    decode [0xDD, 0xA6, 0x05] = .ok (.andIxD 0x05, []) ∧
    decode [0xFD, 0xA6, 0x05] = .ok (.andIyD 0x05, []) ∧
    decode [0xB0] = .ok (.orR .b, []) ∧
    decode [0xF6, 0x48] = .ok (.orN 0x48, []) ∧
    decode [0xB6] = .ok (.orHl, []) ∧
    decode [0xDD, 0xB6, 0x05] = .ok (.orIxD 0x05, []) ∧
    decode [0xFD, 0xB6, 0x05] = .ok (.orIyD 0x05, []) ∧
    decode [0xA8] = .ok (.xorR .b, []) ∧
    decode [0xEE, 0x5D] = .ok (.xorN 0x5D, []) ∧
    decode [0xAE] = .ok (.xorHl, []) ∧
    decode [0xDD, 0xAE, 0x05] = .ok (.xorIxD 0x05, []) ∧
    decode [0xFD, 0xAE, 0x05] = .ok (.xorIyD 0x05, []) ∧
    decode [0xB8] = .ok (.cpR .b, []) ∧
    decode [0xFE, 0x63] = .ok (.cpN 0x63, []) ∧
    decode [0xBE] = .ok (.cpHl, []) ∧
    decode [0xDD, 0xBE, 0x05] = .ok (.cpIxD 0x05, []) ∧
    decode [0xFD, 0xBE, 0x05] = .ok (.cpIyD 0x05, []) :=
  ⟨rfl, rfl, rfl, rfl, rfl, rfl, rfl, rfl, rfl, rfl, rfl, rfl, rfl, rfl, rfl, rfl, rfl, rfl, rfl,
  rfl⟩

/-- Increments and control: the bytes of the Example of each rule R225 to R244. -/
theorem test_decode_increments_and_control :
    decode [0x14] = .ok (.incR .d, []) ∧
    decode [0x34] = .ok (.incHl, []) ∧
    decode [0xDD, 0x34, 0x10] = .ok (.incIxD 0x10, []) ∧
    decode [0xFD, 0x34, 0x10] = .ok (.incIyD 0x10, []) ∧
    decode [0x15] = .ok (.decR .d, []) ∧
    decode [0x35] = .ok (.decHl, []) ∧
    decode [0xDD, 0x35, 0xF0] = .ok (.decIxD 0xF0, []) ∧
    decode [0xFD, 0x35, 0xF0] = .ok (.decIyD 0xF0, []) ∧
    decode [0x27] = .ok (.daa, []) ∧
    decode [0x2F] = .ok (.cpl, []) ∧
    decode [0xED, 0x44] = .ok (.neg, []) ∧
    decode [0x3F] = .ok (.ccf, []) ∧
    decode [0x37] = .ok (.scf, []) ∧
    decode [0x00] = .ok (.nop, []) ∧
    decode [0x76] = .ok (.halt, []) ∧
    decode [0xF3] = .ok (.di, []) ∧
    decode [0xFB] = .ok (.ei, []) ∧
    decode [0xED, 0x46] = .ok (.im0, []) ∧
    decode [0xED, 0x56] = .ok (.im1, []) ∧
    decode [0xED, 0x5E] = .ok (.im2, []) :=
  ⟨rfl, rfl, rfl, rfl, rfl, rfl, rfl, rfl, rfl, rfl, rfl, rfl, rfl, rfl, rfl, rfl, rfl, rfl, rfl,
  rfl⟩

/-- Word arithmetic: the bytes of the Example of each rule R245 to R255. -/
theorem test_decode_word_arithmetic :
    decode [0x19] = .ok (.addHlSs .de, []) ∧
    decode [0xED, 0x4A] = .ok (.adcHlSs .bc, []) ∧
    decode [0xED, 0x52] = .ok (.sbcHlSs .de, []) ∧
    decode [0xDD, 0x09] = .ok (.addIxPp .bc, []) ∧
    decode [0xFD, 0x09] = .ok (.addIyRr .bc, []) ∧
    decode [0x23] = .ok (.incSs .hl, []) ∧
    decode [0xDD, 0x23] = .ok (.incIx, []) ∧
    decode [0xFD, 0x23] = .ok (.incIy, []) ∧
    decode [0x0B] = .ok (.decSs .bc, []) ∧
    decode [0xDD, 0x2B] = .ok (.decIx, []) ∧
    decode [0xFD, 0x2B] = .ok (.decIy, []) :=
  ⟨rfl, rfl, rfl, rfl, rfl, rfl, rfl, rfl, rfl, rfl, rfl⟩

/-- Rotates: the bytes of the Example of each rule R256 to R275. -/
theorem test_decode_rotates :
    decode [0x07] = .ok (.rlca, []) ∧
    decode [0x17] = .ok (.rla, []) ∧
    decode [0x0F] = .ok (.rrca, []) ∧
    decode [0x1F] = .ok (.rra, []) ∧
    decode [0xCB, 0x00] = .ok (.rlcR .b, []) ∧
    decode [0xCB, 0x06] = .ok (.rlcHl, []) ∧
    decode [0xDD, 0xCB, 0x02, 0x06] = .ok (.rlcIxD 0x02, []) ∧
    decode [0xFD, 0xCB, 0x02, 0x06] = .ok (.rlcIyD 0x02, []) ∧
    decode [0xCB, 0x10] = .ok (.rlR .b, []) ∧
    decode [0xCB, 0x16] = .ok (.rlHl, []) ∧
    decode [0xDD, 0xCB, 0x02, 0x16] = .ok (.rlIxD 0x02, []) ∧
    decode [0xFD, 0xCB, 0x02, 0x16] = .ok (.rlIyD 0x02, []) ∧
    decode [0xCB, 0x08] = .ok (.rrcR .b, []) ∧
    decode [0xCB, 0x0E] = .ok (.rrcHl, []) ∧
    decode [0xDD, 0xCB, 0x02, 0x0E] = .ok (.rrcIxD 0x02, []) ∧
    decode [0xFD, 0xCB, 0x02, 0x0E] = .ok (.rrcIyD 0x02, []) ∧
    decode [0xCB, 0x18] = .ok (.rrR .b, []) ∧
    decode [0xCB, 0x1E] = .ok (.rrHl, []) ∧
    decode [0xDD, 0xCB, 0x02, 0x1E] = .ok (.rrIxD 0x02, []) ∧
    decode [0xFD, 0xCB, 0x02, 0x1E] = .ok (.rrIyD 0x02, []) :=
  ⟨rfl, rfl, rfl, rfl, rfl, rfl, rfl, rfl, rfl, rfl, rfl, rfl, rfl, rfl, rfl, rfl, rfl, rfl, rfl,
  rfl⟩

/-- Shifts and digits: the bytes of the Example of each rule R276 to R289. -/
theorem test_decode_shifts_and_digits :
    decode [0xCB, 0x20] = .ok (.slaR .b, []) ∧
    decode [0xCB, 0x26] = .ok (.slaHl, []) ∧
    decode [0xDD, 0xCB, 0x02, 0x26] = .ok (.slaIxD 0x02, []) ∧
    decode [0xFD, 0xCB, 0x02, 0x26] = .ok (.slaIyD 0x02, []) ∧
    decode [0xCB, 0x28] = .ok (.sraR .b, []) ∧
    decode [0xCB, 0x2E] = .ok (.sraHl, []) ∧
    decode [0xDD, 0xCB, 0x02, 0x2E] = .ok (.sraIxD 0x02, []) ∧
    decode [0xFD, 0xCB, 0x02, 0x2E] = .ok (.sraIyD 0x02, []) ∧
    decode [0xCB, 0x38] = .ok (.srlR .b, []) ∧
    decode [0xCB, 0x3E] = .ok (.srlHl, []) ∧
    decode [0xDD, 0xCB, 0x02, 0x3E] = .ok (.srlIxD 0x02, []) ∧
    decode [0xFD, 0xCB, 0x02, 0x3E] = .ok (.srlIyD 0x02, []) ∧
    decode [0xED, 0x6F] = .ok (.rld, []) ∧
    decode [0xED, 0x67] = .ok (.rrd, []) :=
  ⟨rfl, rfl, rfl, rfl, rfl, rfl, rfl, rfl, rfl, rfl, rfl, rfl, rfl, rfl⟩

/-- Bits: the bytes of the Example of each rule R290 to R301. -/
theorem test_decode_bits :
    decode [0xCB, 0x50] = .ok (.bitR 2 .b, []) ∧
    decode [0xCB, 0x66] = .ok (.bitHl 4, []) ∧
    decode [0xDD, 0xCB, 0x04, 0x76] = .ok (.bitIxD 6 0x04, []) ∧
    decode [0xFD, 0xCB, 0x04, 0x76] = .ok (.bitIyD 6 0x04, []) ∧
    decode [0xCB, 0xE7] = .ok (.setR 4 .a, []) ∧
    decode [0xCB, 0xE6] = .ok (.setHl 4, []) ∧
    decode [0xDD, 0xCB, 0x03, 0xC6] = .ok (.setIxD 0 0x03, []) ∧
    decode [0xFD, 0xCB, 0x03, 0xC6] = .ok (.setIyD 0 0x03, []) ∧
    decode [0xCB, 0xB2] = .ok (.resR 6 .d, []) ∧
    decode [0xCB, 0x86] = .ok (.resHl 0, []) ∧
    decode [0xDD, 0xCB, 0xFF, 0xBE] = .ok (.resIxD 7 0xFF, []) ∧
    decode [0xFD, 0xCB, 0xFF, 0xBE] = .ok (.resIyD 7 0xFF, []) :=
  ⟨rfl, rfl, rfl, rfl, rfl, rfl, rfl, rfl, rfl, rfl, rfl, rfl⟩

/-- Jumps and calls: the bytes of the Example of each rule R302 to R319. -/
theorem test_decode_jumps_and_calls :
    decode [0xC3, 0x34, 0x12] = .ok (.jpNn 0x1234, []) ∧
    decode [0xDA, 0x20, 0x15] = .ok (.jpCcNn .c 0x1520, []) ∧
    decode [0x18, 0x03] = .ok (.jr 0x03, []) ∧
    decode [0x38, 0xFA] = .ok (.jrC 0xFA, []) ∧
    decode [0x30, 0xFA] = .ok (.jrNc 0xFA, []) ∧
    decode [0x28, 0xFA] = .ok (.jrZ 0xFA, []) ∧
    decode [0x20, 0xFA] = .ok (.jrNz 0xFA, []) ∧
    decode [0xE9] = .ok (.jpHl, []) ∧
    decode [0xDD, 0xE9] = .ok (.jpIx, []) ∧
    decode [0xFD, 0xE9] = .ok (.jpIy, []) ∧
    decode [0x10, 0xFB] = .ok (.djnz 0xFB, []) ∧
    decode [0xCD, 0x35, 0x21] = .ok (.callNn 0x2135, []) ∧
    decode [0xD4, 0x35, 0x21] = .ok (.callCcNn .nc 0x2135, []) ∧
    decode [0xC9] = .ok (.ret, []) ∧
    decode [0xF8] = .ok (.retCc .m, []) ∧
    decode [0xED, 0x4D] = .ok (.reti, []) ∧
    decode [0xED, 0x45] = .ok (.retn, []) ∧
    decode [0xDF] = .ok (.rst 3, []) :=
  ⟨rfl, rfl, rfl, rfl, rfl, rfl, rfl, rfl, rfl, rfl, rfl, rfl, rfl, rfl, rfl, rfl, rfl, rfl⟩

/-- Ports: the bytes of the Example of each rule R320 to R331. -/
theorem test_decode_ports :
    decode [0xDB, 0x05] = .ok (.inAN 0x05, []) ∧
    decode [0xED, 0x50] = .ok (.inRC .d, []) ∧
    decode [0xED, 0xA2] = .ok (.ini, []) ∧
    decode [0xED, 0xB2] = .ok (.inir, []) ∧
    decode [0xED, 0xAA] = .ok (.ind, []) ∧
    decode [0xED, 0xBA] = .ok (.indr, []) ∧
    decode [0xD3, 0x05] = .ok (.outNA 0x05, []) ∧
    decode [0xED, 0x51] = .ok (.outCR .d, []) ∧
    decode [0xED, 0xA3] = .ok (.outi, []) ∧
    decode [0xED, 0xB3] = .ok (.otir, []) ∧
    decode [0xED, 0xAB] = .ok (.outd, []) ∧
    decode [0xED, 0xBB] = .ok (.otdr, []) :=
  ⟨rfl, rfl, rfl, rfl, rfl, rfl, rfl, rfl, rfl, rfl, rfl, rfl⟩

/-- Fallbacks: bytes of 95_test_vectors.md section 2.11 (R116 to R119). -/
theorem test_decode_fallbacks :
    decode [0xED, 0x70] = .ok (.nopEd 0x70, []) ∧
    decode [0xCB, 0x36] = .ok (.nopCb 6, []) ∧
    decode [0xDD, 0x00] = .ok (.nopDd, [0x00]) ∧
    decode [0xDD, 0xCB, 0x05, 0xC7] = .ok (.nopDdCb 0x05 0xC7, []) ∧
    decode [0xFD, 0x44] = .ok (.nopFd, [0x44]) ∧
    decode [0xFD, 0xCB, 0x05, 0x47] = .ok (.nopFdCb 0x05 0x47, []) :=
  ⟨rfl, rfl, rfl, rfl, rfl, rfl⟩

/-- Truncated byte lists are refused by name (log entry 16). -/
theorem test_decode_truncated :
    (∀ r, decode [] ≠ .ok r) ∧ (∀ r, decode [0x3E] ≠ .ok r) ∧
      (∀ r, decode [0xDD, 0x36, 0x01] ≠ .ok r) := by
  refine ⟨?_, ?_, ?_⟩ <;> intro r h <;> cases h

/-! ### One step -/

/-- 95_test_vectors.md section 2: the default starting state. -/
def start : State := { State.reset with pc := 0x0100 }

/-- `s` with bytes at PC. -/
def code (bs : List Byte) (s : State) : State :=
  { s with mem := .reference (Memory.writeBytes s.mem.cells s.pc bs) }

/-- One step completes, in a state that meets `p`. -/
def runs (s : State) (p : State → Prop) [DecidablePred p] : Bool :=
  match step s with
  | .next t => decide (p t)
  | .fault _ => false
  | .refused _ => false

/-- `LD H,(HL)`, 95_test_vectors.md 2.1: destination is half of the pointer. -/
theorem test_ld_h_from_hl :
    runs (code [0x66]
      { start with
        main := { start.main with h := 0x40, l := 0x00 }
        mem := .reference [(0x4000, 0x12)] }) fun t =>
      t.hl = 0x1200 ∧ t.pc = 0x0101 := by
  decide

/-- `LD (HL),L`, 95_test_vectors.md 2.1: source is half of the pointer. -/
theorem test_ld_hl_from_l :
    runs (code [0x75] { start with main := { start.main with h := 0x40, l := 0x34 } }) fun t =>
      t.readByte 0x4034 = 0x34 ∧ t.pc = 0x0101 := by
  decide

/-- `LD A,(IX-128)`, 95_test_vectors.md 2.1: d = -128. -/
theorem test_ld_ix_minus_128 :
    runs (code [0xDD, 0x7E, 0x80]
      { start with ix := 0x0080, mem := .reference [(0x0, 0x77)] }) fun t =>
      t.main.a = 0x77 ∧ t.pc = 0x0103 := by
  decide

/-- `LD (IX-2),H`, 95_test_vectors.md 2.1: H is H, not a half of IX. -/
theorem test_ld_ix_h :
    runs (code [0xDD, 0x74, 0xFE]
      { start with main := { start.main with h := 0x12, l := 0x34 }, ix := 0x4000 }) fun t =>
      t.readByte 0x3FFE = 0x12 ∧ t.pc = 0x0103 := by
  decide

/-- `LD (IY+5),A5H`, 95_test_vectors.md 2.1: d before n. -/
theorem test_ld_iy_d_n :
    runs (code [0xFD, 0x36, 0x05, 0xA5] { start with iy := 0x4000 }) fun t =>
      t.readByte 0x4005 = 0xA5 ∧ t.pc = 0x0104 := by
  decide

/-- `LD (4000H),A`, 95_test_vectors.md 2.1. -/
theorem test_ld_nn_a :
    runs (code [0x32, 0x00, 0x40] { start with main := { start.main with a := 0xD7 } }) fun t =>
      t.readByte 0x4000 = 0xD7 ∧ t.pc = 0x0103 := by
  decide

/-- `LD A,I`, 95_test_vectors.md 2.1: P/V = iff2; C kept; bits 5, 3 kept. -/
theorem test_ld_a_i :
    runs (code [0xED, 0x57]
      { start with main := { start.main with f := 0xFF }, iReg := 0x80, iff2 := true }) fun t =>
      t.main.a = 0x80 ∧ t.main.f = 0xAD ∧ t.pc = 0x0102 := by
  decide

/-- `LD A,R`, 95_test_vectors.md 2.1: R read after its own two increments; 7-bit wrap. -/
theorem test_ld_a_r :
    runs (code [0xED, 0x5F] { start with rReg := 0x7F }) fun t =>
      t.main.a = 0x01 ∧ t.rReg = 0x01 ∧ t.pc = 0x0102 := by
  decide

/-- `LD R,A`, 95_test_vectors.md 2.1: written after the increments. -/
theorem test_ld_r_a :
    runs (code [0xED, 0x4F] { start with main := { start.main with a := 0xFF } }) fun t =>
      t.rReg = 0xFF ∧ t.pc = 0x0102 := by
  decide

/-- `LD HL,(FFFFH)`, 95_test_vectors.md 2.2: word straddles the wrap. -/
theorem test_ld_hl_nn_wraps :
    runs (code [0x2A, 0xFF, 0xFF]
      { start with mem := .reference [(0x0, 0x12), (0xffff, 0x34)] }) fun t =>
      t.hl = 0x1234 ∧ t.pc = 0x0103 := by
  decide

/-- `EX (SP),IX`, 95_test_vectors.md 2.3: stack word straddles the wrap. -/
theorem test_ex_sp_ix_wraps :
    runs (code [0xDD, 0xE3]
      { start with
        ix := 0x3988
        sp := 0xFFFF
        mem := .reference [(0x0, 0x48), (0xffff, 0x90)] }) fun t =>
      t.ix = 0x4890 ∧ t.readByte 0x0000 = 0x39 ∧ t.readByte 0xFFFF = 0x88 ∧ t.pc = 0x0102 := by
  decide

/-- `EX AF,AF'`, 95_test_vectors.md 2.3: whole F both ways. -/
theorem test_ex_af :
    runs (code [0x08]
      { start with
        main := { start.main with a := 0x12, f := 0x34 }
        shadow := { start.shadow with a := 0x56, f := 0x78 } }) fun t =>
      t.main.a = 0x56 ∧ t.main.f = 0x78 ∧ t.shadow.af = 0x1234 ∧ t.pc = 0x0101 := by
  decide

/-- `EXX`, 95_test_vectors.md 2.3. -/
theorem test_exx :
    runs (code [0xD9]
      { start with
        main := { start.main with b := 0x00, c := 0x01, d := 0x00, e := 0x02, h := 0x00, l := 0x03 }
        shadow := { start.shadow with b := 0x10, c := 0x01, d := 0x10, e := 0x02, h := 0x10, l := 0x03 } }) fun t =>
      t.bc = 0x1001 ∧ t.de = 0x1002 ∧ t.hl = 0x1003 ∧ t.shadow.bc = 0x0001 ∧ t.shadow.de = 0x0002
      ∧ t.shadow.hl = 0x0003 ∧ t.pc = 0x0101 := by
  decide

/-- `LDI`, 95_test_vectors.md 2.3: BC wraps to 0xFFFF; HL, DE wrap to 0. -/
theorem test_ldi_wraps :
    runs (code [0xED, 0xA0]
      { start with
        main := { start.main with h := 0xFF, l := 0xFF, d := 0xFF, e := 0xFF, b := 0x00, c := 0x00 }
        mem := .reference [(0xffff, 0x5A)] }) fun t =>
      t.main.f = 0x04 ∧ t.bc = 0xFFFF ∧ t.de = 0x0000 ∧ t.hl = 0x0000 ∧ t.pc = 0x0102 := by
  decide

/-- `LDIR`, 95_test_vectors.md 2.3: repeats: PC back to the instruction. -/
theorem test_ldir_repeats :
    runs (code [0xED, 0xB0]
      { start with
        main := { start.main with h := 0x11, l := 0x11, d := 0x22, e := 0x22, b := 0x00, c := 0x02 }
        mem := .reference [(0x1111, 0x88), (0x1112, 0x36)] }) fun t =>
      t.main.f = 0x04 ∧ t.bc = 0x0001 ∧ t.de = 0x2223 ∧ t.hl = 0x1112 ∧ t.readByte 0x2222 = 0x88 ∧
      t.pc = 0x0100 := by
  decide

/-- `CPI`, 95_test_vectors.md 2.3: half borrow: H = 1. -/
theorem test_cpi_half_borrow :
    runs (code [0xED, 0xA1]
      { start with
        main := { start.main with a := 0x10, h := 0x11, l := 0x11, b := 0x00, c := 0x05 }
        mem := .reference [(0x1111, 0x01)] }) fun t =>
      t.main.f = 0x16 ∧ t.bc = 0x0004 ∧ t.hl = 0x1112 ∧ t.pc = 0x0102 := by
  decide

/-- `CPD`, 95_test_vectors.md 2.3: HL wraps down; result 0xFF: S = 1. -/
theorem test_cpd_wraps :
    runs (code [0xED, 0xA9]
      { start with
        main := { start.main with a := 0x00, h := 0x00, l := 0x00, b := 0x00, c := 0x02 }
        mem := .reference [(0x0, 0x01)] }) fun t =>
      t.main.f = 0x96 ∧ t.bc = 0x0001 ∧ t.hl = 0xFFFF ∧ t.pc = 0x0102 := by
  decide

/-- `ADD A,B`, 95_test_vectors.md 2.4: carry and overflow and zero. -/
theorem test_add_overflow :
    runs (code [0x80]
      { start with main := { start.main with a := 0x80, b := 0x80, c := 0x00 } }) fun t =>
      t.main.a = 0x00 ∧ t.main.f = 0x45 ∧ t.pc = 0x0101 := by
  decide

/-- `ADC A,00H`, 95_test_vectors.md 2.4: carry in makes the overflow. -/
theorem test_adc_overflow :
    runs (code [0xCE, 0x00]
      { start with main := { start.main with a := 0x7F, f := 0x01 } }) fun t =>
      t.main.a = 0x80 ∧ t.main.f = 0x94 ∧ t.pc = 0x0102 := by
  decide

/-- `SUB B`, 95_test_vectors.md 2.4: signed overflow. -/
theorem test_sub_overflow :
    runs (code [0x90]
      { start with main := { start.main with a := 0x80, b := 0x01, c := 0x00 } }) fun t =>
      t.main.a = 0x7F ∧ t.main.f = 0x16 ∧ t.pc = 0x0101 := by
  decide

/-- `SBC A,FFH`, 95_test_vectors.md 2.4: 0 - 0xFF - 1 = 0x00 with borrow. -/
theorem test_sbc_borrow :
    runs (code [0xDE, 0xFF]
      { start with main := { start.main with a := 0x00, f := 0x01 } }) fun t =>
      t.main.f = 0x53 ∧ t.pc = 0x0102 := by
  decide

/-- `AND A`, 95_test_vectors.md 2.4: AND A with zero. -/
theorem test_and_zero :
    runs (code [0xA7] { start with main := { start.main with a := 0x00 } }) fun t =>
      t.main.f = 0x54 ∧ t.pc = 0x0101 := by
  decide

/-- `OR A`, 95_test_vectors.md 2.4: OR A with zero: Z, PV. -/
theorem test_or_zero :
    runs (code [0xB7] { start with main := { start.main with a := 0x00, f := 0xD7 } }) fun t =>
      t.main.f = 0x44 ∧ t.pc = 0x0101 := by
  decide

/-- `XOR A`, 95_test_vectors.md 2.4: XOR A clears A. -/
theorem test_xor_clears :
    runs (code [0xAF] { start with main := { start.main with a := 0x5A, f := 0xFF } }) fun t =>
      t.main.a = 0x00 ∧ t.main.f = 0x6C ∧ t.pc = 0x0101 := by
  decide

/-- `CP B`, 95_test_vectors.md 2.4: A kept; bits 5, 3 kept. -/
theorem test_cp_keeps_a :
    runs (code [0xB8]
      { start with
        main := { start.main with a := 0x63, b := 0x60, c := 0x00, f := 0x28 } }) fun t =>
      t.main.f = 0x2A ∧ t.pc = 0x0101 := by
  decide

/-- `INC A`, 95_test_vectors.md 2.4: 0xFF: zero, half carry, C not set. -/
theorem test_inc_wraps :
    runs (code [0x3C] { start with main := { start.main with a := 0xFF, f := 0x00 } }) fun t =>
      t.main.a = 0x00 ∧ t.main.f = 0x50 ∧ t.pc = 0x0101 := by
  decide

/-- `DEC (IY-3)`, 95_test_vectors.md 2.4. -/
theorem test_dec_iy :
    runs (code [0xFD, 0x35, 0xFD]
      { start with iy := 0x2003, mem := .reference [(0x2000, 0x01)] }) fun t =>
      t.main.f = 0x42 ∧ t.readByte 0x2000 = 0x00 ∧ t.pc = 0x0103 := by
  decide

/-- `DAA`, 95_test_vectors.md 2.5: 0x9A: both corrections, result 0x00, carry. -/
theorem test_daa_both :
    runs (code [0x27] { start with main := { start.main with a := 0x9A, f := 0x00 } }) fun t =>
      t.main.a = 0x00 ∧ t.main.f = 0x55 ∧ t.pc = 0x0101 := by
  decide

/-- `DAA`, 95_test_vectors.md 2.5: after a subtraction with H and C set. -/
theorem test_daa_after_sub :
    runs (code [0x27] { start with main := { start.main with a := 0x00, f := 0x13 } }) fun t =>
      t.main.a = 0x9A ∧ t.main.f = 0x97 ∧ t.pc = 0x0101 := by
  decide

/-- `CPL`, 95_test_vectors.md 2.5. -/
theorem test_cpl :
    runs (code [0x2F] { start with main := { start.main with a := 0xB4, f := 0x00 } }) fun t =>
      t.main.a = 0x4B ∧ t.main.f = 0x12 ∧ t.pc = 0x0101 := by
  decide

/-- `NEG`, 95_test_vectors.md 2.5: 0x80: overflow, stays 0x80. -/
theorem test_neg_80 :
    runs (code [0xED, 0x44] { start with main := { start.main with a := 0x80 } }) fun t =>
      t.main.f = 0x87 ∧ t.pc = 0x0102 := by
  decide

/-- `CCF`, 95_test_vectors.md 2.5: H takes the old C. -/
theorem test_ccf :
    runs (code [0x3F] { start with main := { start.main with f := 0x01 } }) fun t =>
      t.main.f = 0x10 ∧ t.pc = 0x0101 := by
  decide

/-- `SCF`, 95_test_vectors.md 2.5: S, Z, PV, bits 5 and 3 kept. -/
theorem test_scf :
    runs (code [0x37] { start with main := { start.main with f := 0xFE } }) fun t =>
      t.main.f = 0xED ∧ t.pc = 0x0101 := by
  decide

/-- `HALT`, 95_test_vectors.md 2.5. -/
theorem test_halt :
    runs (code [0x76] { start with iff1 := true, iff2 := true }) fun t =>
      t.halted = true ∧ t.pc = 0x0101 := by
  decide

/-- `EI`, 95_test_vectors.md 2.5. -/
theorem test_ei :
    runs (code [0xFB] start) fun t =>
      t.iff1 = true ∧ t.iff2 = true ∧ t.eiDelay = true ∧ t.pc = 0x0101 := by
  decide

/-- `IM 2`, 95_test_vectors.md 2.5. -/
theorem test_im_2 :
    runs (code [0xED, 0x5E] start) fun t =>
      t.im = .im2 ∧ t.pc = 0x0102 := by
  decide

/-- `RLCA`, 95_test_vectors.md 2.7: S, Z, PV kept. -/
theorem test_rlca :
    runs (code [0x07] { start with main := { start.main with a := 0x88, f := 0xC4 } }) fun t =>
      t.main.a = 0x11 ∧ t.main.f = 0xC5 ∧ t.pc = 0x0101 := by
  decide

/-- `RRA`, 95_test_vectors.md 2.7. -/
theorem test_rra :
    runs (code [0x1F] { start with main := { start.main with a := 0xE1, f := 0x00 } }) fun t =>
      t.main.a = 0x70 ∧ t.main.f = 0x01 ∧ t.pc = 0x0101 := by
  decide

/-- `RLC B`, 95_test_vectors.md 2.7: bit 7 to C and to bit 0. -/
theorem test_rlc_b :
    runs (code [0xCB, 0x00]
      { start with main := { start.main with b := 0x80, c := 0x00 } }) fun t =>
      t.main.f = 0x01 ∧ t.bc = 0x0100 ∧ t.pc = 0x0102 := by
  decide

/-- `RR (HL)`, 95_test_vectors.md 2.7. -/
theorem test_rr_hl :
    runs (code [0xCB, 0x1E]
      { start with
        main := { start.main with h := 0x43, l := 0x43, f := 0x01 }
        mem := .reference [(0x4343, 0xDD)] }) fun t =>
      t.main.f = 0x85 ∧ t.readByte 0x4343 = 0xEE ∧ t.pc = 0x0102 := by
  decide

/-- `SRA A`, 95_test_vectors.md 2.7: SRA keeps the sign. -/
theorem test_sra_a :
    runs (code [0xCB, 0x2F] { start with main := { start.main with a := 0x81 } }) fun t =>
      t.main.a = 0xC0 ∧ t.main.f = 0x85 ∧ t.pc = 0x0102 := by
  decide

/-- `SRL (IY-1)`, 95_test_vectors.md 2.7. -/
theorem test_srl_iy :
    runs (code [0xFD, 0xCB, 0xFF, 0x3E]
      { start with iy := 0x1000, mem := .reference [(0xfff, 0x8F)] }) fun t =>
      t.main.f = 0x05 ∧ t.readByte 0x0FFF = 0x47 ∧ t.pc = 0x0104 := by
  decide

/-- `SRA (IY+127)`, 95_test_vectors.md 2.7: ea wraps. -/
theorem test_sra_iy_wraps :
    runs (code [0xFD, 0xCB, 0x7F, 0x2E]
      { start with iy := 0xFFFF, mem := .reference [(0x7e, 0xB8)] }) fun t =>
      t.main.f = 0x80 ∧ t.readByte 0x007E = 0xDC ∧ t.pc = 0x0104 := by
  decide

/-- `RLD`, 95_test_vectors.md 2.7: C kept. -/
theorem test_rld :
    runs (code [0xED, 0x6F]
      { start with
        main := { start.main with a := 0x7A, h := 0x50, l := 0x00, f := 0x01 }
        mem := .reference [(0x5000, 0x31)] }) fun t =>
      t.main.a = 0x73 ∧ t.readByte 0x5000 = 0x1A ∧ t.pc = 0x0102 := by
  decide

/-- `RRD`, 95_test_vectors.md 2.7. -/
theorem test_rrd :
    runs (code [0xED, 0x67]
      { start with
        main := { start.main with a := 0x84, h := 0x50, l := 0x00 }
        mem := .reference [(0x5000, 0x20)] }) fun t =>
      t.main.a = 0x80 ∧ t.main.f = 0x80 ∧ t.readByte 0x5000 = 0x42 ∧ t.pc = 0x0102 := by
  decide

/-- `BIT 7,A`, 95_test_vectors.md 2.8: bit clear: Z = 1; S and C kept. -/
theorem test_bit_clear :
    runs (code [0xCB, 0x7F]
      { start with main := { start.main with a := 0x7F, f := 0x81 } }) fun t =>
      t.main.f = 0xD1 ∧ t.pc = 0x0102 := by
  decide

/-- `BIT 3,(IY-4)`, 95_test_vectors.md 2.8. -/
theorem test_bit_iy :
    runs (code [0xFD, 0xCB, 0xFC, 0x5E]
      { start with iy := 0x2004, mem := .reference [(0x2000, 0xF7)] }) fun t =>
      t.main.f = 0x50 ∧ t.pc = 0x0104 := by
  decide

/-- `SET 7,B`, 95_test_vectors.md 2.8: no flag changes. -/
theorem test_set_7_b :
    runs (code [0xCB, 0xF8]
      { start with main := { start.main with b := 0x00, c := 0x00, f := 0xFF } }) fun t =>
      t.bc = 0x8000 ∧ t.main.f = 0xFF ∧ t.pc = 0x0102 := by
  decide

/-- `SET 0,(IX+3)`, 95_test_vectors.md 2.8. -/
theorem test_set_ix :
    runs (code [0xDD, 0xCB, 0x03, 0xC6]
      { start with ix := 0x2000, mem := .reference [(0x2003, 0x00)] }) fun t =>
      t.readByte 0x2003 = 0x01 ∧ t.pc = 0x0104 := by
  decide

/-- `RES 3,(IY-128)`, 95_test_vectors.md 2.8: d = -128. -/
theorem test_res_iy_minus_128 :
    runs (code [0xFD, 0xCB, 0x80, 0x9E]
      { start with iy := 0x2080, mem := .reference [(0x2000, 0xFF)] }) fun t =>
      t.readByte 0x2000 = 0xF7 ∧ t.pc = 0x0104 := by
  decide

/-- `ADD HL,SP`, 95_test_vectors.md 2.6. -/
theorem test_add_hl_sp :
    runs (code [0x39]
      { start with main := { start.main with h := 0x10, l := 0x00 }, sp := 0x2000 }) fun t =>
      t.hl = 0x3000 ∧ t.pc = 0x0101 := by
  decide

/-- `ADC HL,HL`, 95_test_vectors.md 2.6: ADC HL,HL. -/
theorem test_adc_hl_hl :
    runs (code [0xED, 0x6A]
      { start with main := { start.main with h := 0x40, l := 0x00 } }) fun t =>
      t.main.f = 0x84 ∧ t.hl = 0x8000 ∧ t.pc = 0x0102 := by
  decide

/-- `SBC HL,HL`, 95_test_vectors.md 2.6: HL - HL - 1 = 0xFFFF. -/
theorem test_sbc_hl_hl :
    runs (code [0xED, 0x62]
      { start with main := { start.main with h := 0x12, l := 0x34, f := 0x01 } }) fun t =>
      t.main.f = 0x93 ∧ t.hl = 0xFFFF ∧ t.pc = 0x0102 := by
  decide

/-- `ADD IX,IX`, 95_test_vectors.md 2.6: IX + IX; code 2 means IX here. -/
theorem test_add_ix_ix :
    runs (code [0xDD, 0x29] { start with ix := 0x8800 }) fun t =>
      t.main.f = 0x11 ∧ t.ix = 0x1000 ∧ t.pc = 0x0102 := by
  decide

/-- `DEC SP`, 95_test_vectors.md 2.6: wraps, no flag. -/
theorem test_dec_sp :
    runs (code [0x3B] { start with main := { start.main with f := 0xFF }, sp := 0x0000 }) fun t =>
      t.sp = 0xFFFF ∧ t.pc = 0x0101 := by
  decide

/-- `JR 0082H`, 95_test_vectors.md 2.9: e = -128. -/
theorem test_jr_minus_128 :
    runs (code [0x18, 0x80] start) fun t =>
      t.pc = 0x0082 := by
  decide

/-- `DJNZ 0112H`, 95_test_vectors.md 2.9: B = 0: wraps to 0xFF, taken; no flags. -/
theorem test_djnz_from_0 :
    runs (code [0x10, 0x10]
      { start with main := { start.main with b := 0x00, c := 0x00, f := 0xFF } }) fun t =>
      t.bc = 0xFF00 ∧ t.pc = 0x0112 := by
  decide

/-- `JP PO,4000H`, 95_test_vectors.md 2.9: PO with PV = 1: not taken. -/
theorem test_jp_po_not_taken :
    runs (code [0xE2, 0x00, 0x40] { start with main := { start.main with f := 0x04 } }) fun t =>
      t.pc = 0x0103 := by
  decide

/-- `CALL 2135H`, 95_test_vectors.md 2.9. -/
theorem test_call :
    runs (code [0xCD, 0x35, 0x21] { start with pc := 0x1A47, sp := 0x3002 }) fun t =>
      t.sp = 0x3000 ∧ t.readByte 0x3000 = 0x4A ∧ t.readByte 0x3001 = 0x1A ∧ t.pc = 0x2135 := by
  decide

/-- `CALL C,4000H`, 95_test_vectors.md 2.9: not taken: nothing pushed. -/
theorem test_call_not_taken :
    runs (code [0xDC, 0x00, 0x40]
      { start with main := { start.main with f := 0x00 }, sp := 0x8000 }) fun t =>
      t.pc = 0x0103 := by
  decide

/-- `RET M`, 95_test_vectors.md 2.9: M taken. -/
theorem test_ret_m :
    runs (code [0xF8]
      { start with
        main := { start.main with f := 0x80 }
        sp := 0x2000
        mem := .reference [(0x2000, 0xB5), (0x2001, 0x18)] }) fun t =>
      t.sp = 0x2002 ∧ t.pc = 0x18B5 := by
  decide

/-- `RETN`, 95_test_vectors.md 2.9: RETN copies iff2 to iff1. -/
theorem test_retn :
    runs (code [0xED, 0x45]
      { start with
        sp := 0x2000
        iff1 := false
        iff2 := true
        mem := .reference [(0x2000, 0xB5), (0x2001, 0x18)] }) fun t =>
      t.sp = 0x2002 ∧ t.iff1 = true ∧ t.pc = 0x18B5 := by
  decide

/-- `RST 00H`, 95_test_vectors.md 2.9: RST 00H with SP = 0: stack wraps. -/
theorem test_rst_stack_wraps :
    runs (code [0xC7] { start with sp := 0x0000 }) fun t =>
      t.sp = 0xFFFE ∧ t.readByte 0xFFFE = 0x01 ∧ t.readByte 0xFFFF = 0x01 ∧ t.pc = 0x0000 := by
  decide

/-- `IN A,(01H)`, 95_test_vectors.md 2.10: no flag changes. -/
theorem test_in_a_device :
    runs (code [0xDB, 0x01]
      { start with
        main := { start.main with a := 0x23, f := 0xFF }
        ports := [(0x01, 0)]
        devices := [(0, ⟨[0x7B], []⟩)] }) fun t =>
      t.main.a = 0x7B ∧ (t.device 0).calls.length = 1 ∧ t.pc = 0x0102 := by
  decide

/-- `IN A,(C)`, 95_test_vectors.md 2.10: empty port: 0x00, Z, PV. -/
theorem test_in_a_c_empty :
    runs (code [0xED, 0x78]
      { start with main := { start.main with b := 0x00, c := 0x07, a := 0x55 } }) fun t =>
      t.main.a = 0x00 ∧ t.main.f = 0x44 ∧ t.pc = 0x0102 := by
  decide

/-- `OUT (C),D`, 95_test_vectors.md 2.10: no flag changes. -/
theorem test_out_c_d :
    runs (code [0xED, 0x51]
      { start with
        main := { start.main with b := 0x00, c := 0x01, d := 0x5A, e := 0x00, f := 0xFF }
        ports := [(0x01, 0)]
        devices := [(0, ⟨[], []⟩)] }) fun t =>
      (t.device 0).calls = [.writeOut 0x5A] ∧ t.pc = 0x0102 := by
  decide

/-- `INI`, 95_test_vectors.md 2.10: B to 0: Z = 1; HL wraps; C kept. -/
theorem test_ini_last :
    runs (code [0xED, 0xA2]
      { start with
        main := { start.main with b := 0x01, c := 0x07, h := 0xFF, l := 0xFF, f := 0x01 }
        ports := [(0x07, 0)]
        devices := [(0, ⟨[0x7B], []⟩)] }) fun t =>
      t.main.f = 0x43 ∧ t.bc = 0x0007 ∧ t.hl = 0x0000 ∧ t.readByte 0xFFFF = 0x7B ∧ (t.device
      0).calls.length = 1 ∧ t.pc = 0x0102 := by
  decide

/-- `OTIR`, 95_test_vectors.md 2.10: B = 0 means 256 repetitions. -/
theorem test_otir_from_0 :
    runs (code [0xED, 0xB3]
      { start with
        main := { start.main with b := 0x00, c := 0x07, h := 0x10, l := 0x00 }
        mem := .reference [(0x1000, 0x51)]
        ports := [(0x07, 0)]
        devices := [(0, ⟨[], []⟩)] }) fun t =>
      t.main.f = 0x02 ∧ t.bc = 0xFF07 ∧ t.hl = 0x1001 ∧ (t.device 0).calls = [.writeOut 0x51] ∧
      t.pc = 0x0100 := by
  decide

/-- `OUTD`, 95_test_vectors.md 2.10. -/
theorem test_outd :
    runs (code [0xED, 0xAB]
      { start with
        main := { start.main with b := 0x01, c := 0x07, h := 0x10, l := 0x00 }
        mem := .reference [(0x1000, 0x59)]
        ports := [(0x07, 0)]
        devices := [(0, ⟨[], []⟩)] }) fun t =>
      t.main.f = 0x42 ∧ t.bc = 0x0007 ∧ t.hl = 0x0FFF ∧ (t.device 0).calls = [.writeOut 0x59] ∧
      t.pc = 0x0102 := by
  decide

/-- `NOP*`, 95_test_vectors.md 2.11: IN (C) of silicon: here a no-op, no read_in. -/
theorem test_fallback_ed_70 :
    runs (code [0xED, 0x70]
      { start with
        main := { start.main with b := 0x00, c := 0x07 }
        ports := [(0x07, 0)]
        devices := [(0, ⟨[0x7B], []⟩)] }) fun t =>
      t.pc = 0x0102 ∧ (t.device 0).calls = [] := by
  decide

/-- `NOP*`, 95_test_vectors.md 2.11: lone DD: 1 byte, 4 T, R + 1; the 0x00 is the next
instruction. -/
theorem test_fallback_lone_dd :
    runs (code [0xDD, 0x00] start) fun t =>
      t.rReg = 0x01 ∧ t.pc = 0x0101 := by
  decide

/-- `NOP*`, 95_test_vectors.md 2.11: BIT 0,(IY+5) mirror of silicon: here a no-op. -/
theorem test_fallback_fd_cb :
    runs (code [0xFD, 0xCB, 0x05, 0x47]
      { start with
        main := { start.main with f := 0x00 }
        iy := 0x1000
        mem := .reference [(0x1005, 0x01)] }) fun t =>
      t.pc = 0x0104 := by
  decide

/-! ### Witnesses: states and operands that meet the hypotheses of each obligation that has some -/

/-- A halted machine that is not hung. -/
def waiting : State := { start with halted := true, iff2 := true }

/-- A machine with an interrupt it will accept. -/
def offered (m : IntMode) (bus : Byte) : State :=
  { start with iff1 := true, iff2 := true, icPending := true, icBus := bus, im := m }

theorem start_running : start.Running := ⟨rfl, rfl, rfl, rfl⟩

theorem start_ready : start.Ready := ⟨start_running, rfl, rfl⟩

theorem start_inv : start.Inv := ⟨rfl, rfl, rfl, rfl, rfl⟩

theorem offered_running (m : IntMode) (bus : Byte) : (offered m bus).Running := ⟨rfl, rfl, rfl, rfl⟩

theorem witness_ResetTableAndFirstFetch :
    State.reset.handle = .live ∧ State.reset.memInstalled = true ∧
    State.reset.teardown.handle = .tornDown :=
  ⟨rfl, rfl, rfl⟩

/-- A provider whose cells hold a number twice, one that wraps, a ROM, a hole and a mirror of 0x0000. -/
def mapped : Provider :=
  .backed [⟨0x2000, 0x100, .cells 0x2000 false⟩, ⟨0x4000, 1, .absent 0xFF⟩,
      ⟨0x8000, 0x1000, .cells 0x0000 true⟩]
    [(0x10, 0x11), (0x1FFFF, 0x22), (0x2000, 0x76), (0x10, 0x33)]

/-- The port numbers at both ends of the range, and the two beside them; every kind of region of a provider,
at its first and last address and beside it; a provider given by a number. -/
theorem witness_InstallAndTeardown :
    start.handle = .live ∧ (start.installDevice 0 7).1 = .ok ∧ (start.installDevice 255 7).1 = .ok ∧
    start.installDevice (-1) 7 = (.invalidState, start) ∧
    start.installDevice 256 7 = (.invalidState, start) ∧
    (start.installMemory mapped).2.readByte 0x0010 = 0x33 ∧
    (start.installMemory mapped).2.readByte 0xFFFF = 0x22 ∧
    (start.installMemory mapped).2.readByte 0x2000 = 0x76 ∧
    (start.installMemory mapped).2.readByte 0x4000 = 0xFF ∧
    (start.installMemory mapped).2.readByte 0x3FFF = 0x00 ∧
    (start.installMemory mapped).2.readByte 0x4001 = 0x00 ∧
    (start.installMemory mapped).2.readByte 0x8010 = 0x33 ∧
    (start.installMemory (.host 3 [])).2.mem = .host 3 [] := by
  decide

/-- The mirror is the region that counts at 0x8010, and none holds 0x0010. -/
theorem witness_regions :
    Decides [⟨0x4000, 1, .absent 0xFF⟩, ⟨0x8000, 0x1000, .cells 0 true⟩]
      ⟨0x8000, 0x1000, .cells 0 true⟩ 0x8010 ∧
    ¬ Region.Holds ⟨0x4000, 1, .absent 0xFF⟩ 0x0010 :=
  ⟨⟨[⟨0x4000, 1, .absent 0xFF⟩], [], rfl, ⟨by decide, by decide⟩, fun _ hq hh => by
    rw [List.mem_singleton.mp hq] at hh
    exact absurd hh.2 (by decide)⟩, fun h => absurd h.1 (by decide)⟩

/-- A documented instruction followed by nothing, and a lone prefix followed by a byte. -/
theorem witness_DecodeUndoesEncode :
    (Instr.ldIxDN 0xFF 0x5A).wellFormed = true ∧ (Instr.ldIxDN 0xFF 0x5A).format ≠ .xyLone ∧
    (Instr.nopDd).wellFormed = true ∧ (Instr.nopDd).format = .xyLone ∧
    ([0x44] : List Byte) = 0x44 :: [] ∧ (0x44 : Byte) ≠ 0xCB ∧ (0x44 : Byte) ∉ xyDocumented := by
  decide

/-- NOP at the default start, an instruction whose bytes wrap past the end of memory, and one with the
look-ahead read. -/
theorem witness_StepRunsTheDecodedInstruction :
    start.Ready ∧ Fetches start .nop ∧
    (code [0x3E, 0x7F] { start with pc := 0xFFFF }).Ready ∧
    Fetches (code [0x3E, 0x7F] { start with pc := 0xFFFF }) (.ldRN .a 0x7F) ∧
    Fetches (code [0xDD, 0x7E, 0x80] start) (.ldRIxD .a 0x80) ∧
    start.mem.isReference = true :=
  ⟨start_ready, (fetches_iff _ _).mpr rfl, ⟨⟨rfl, rfl, rfl, rfl⟩, rfl, rfl⟩,
    (fetches_iff _ _).mpr rfl, (fetches_iff _ _).mpr rfl, rfl⟩

/-- One state for each clause. -/
theorem witness_StepStopsWhere :
    step start.teardown = .fault .tornDown ∧
    step { start with memInstalled := false } = .fault .noMemory ∧
    step { start with halted := true } = .fault .hung ∧
    (start.hung = false ∧ step { start with icLock := .invalid } = .fault .lockInvalid ∧
      step { start with icLock := .held .core } = .fault .lockDeadlock ∧
      step { start with icLock := .held (.poster 3) } = .fault .lockWait ∧
      start.icLock = .free) :=
  ⟨rfl, rfl, rfl, rfl, rfl, rfl, rfl, rfl⟩

theorem witness_StepKeepsInvariant : start.Inv ∧ ∃ t, step start = .next t :=
  ⟨start_inv, _, rfl⟩

/-- A poster posts, the Core accepts, and runs on. -/
theorem witness_SchedulesKeepInvariant :
    { start with iff1 := true, iff2 := true }.Inv ∧
    ∃ v, (System.idle { start with iff1 := true, iff2 := true }).reacts
      [.execute 14, .acquire 0 .blocking, .acquire 1 .nonBlocking, .post 0 0xFF, .core, .core,
        .acquire 1 .nonBlocking, .clear 1, .core] = some v ∧
      v.replies = [(1, .ok), (0, .ok), (1, .wouldBlock)] ∧ v.results = [(17, .done)] :=
  ⟨⟨rfl, rfl, rfl, rfl, rfl⟩, _, rfl, rfl, rfl⟩

theorem witness_StepsKeepTheWiring : ∃ t, step (offered .im1 0) = .next t := ⟨_, rfl⟩

theorem witness_AcceptanceInModeOne :
    (offered .im1 0x12).Running ∧ (offered .im1 0x12).iff1 = true ∧
    (offered .im1 0x12).eiDelay = false ∧ (offered .im1 0x12).icPending = true ∧
    (offered .im1 0x12).im = .im1 :=
  ⟨offered_running .im1 0x12, rfl, rfl, rfl, rfl⟩

theorem witness_AcceptanceInModeTwo :
    (offered .im2 0xFF).Running ∧ (offered .im2 0xFF).iff1 = true ∧
    (offered .im2 0xFF).eiDelay = false ∧ (offered .im2 0xFF).icPending = true ∧
    (offered .im2 0xFF).im = .im2 :=
  ⟨offered_running .im2 0xFF, rfl, rfl, rfl, rfl⟩

/-- RST 38H on the bus, an instruction that takes its other bytes from memory, and a lone prefix. -/
theorem witness_AcceptanceInModeZero :
    (offered .im0 0xFF).Running ∧ (offered .im0 0xFF).iff1 = true ∧
    (offered .im0 0xFF).eiDelay = false ∧ (offered .im0 0xFF).icPending = true ∧
    (offered .im0 0xFF).im = .im0 ∧ Injects (offered .im0 0xFF) (.rst 7) ∧
    (offered .im0 0xFF).icBus = 0xFF ∧
    (code [0x34, 0x12] (offered .im0 0xCD)).Running ∧
    Injects (code [0x34, 0x12] (offered .im0 0xCD)) (.callNn 0x1234) ∧
    Injects (offered .im0 0xDD) .nopDd :=
  ⟨offered_running .im0 0xFF, rfl, rfl, rfl, rfl, (injects_iff _ _).mpr rfl, rfl,
    ⟨rfl, rfl, rfl, rfl⟩, (injects_iff _ _).mpr rfl, (injects_iff _ _).mpr rfl⟩

/-- Each way not to accept, running and halted. -/
theorem witness_NoAcceptanceOutsideTheCondition :
    (start.Running ∧ start.iff1 = false ∧ start.halted = false) ∧
    ({ offered .im1 0 with eiDelay := true }.Running ∧
      { offered .im1 0 with eiDelay := true }.halted = false) ∧
    ({ offered .im1 0 with icPending := false }.Running ∧
      { offered .im1 0 with icPending := false }.halted = false) ∧
    (waiting.Running ∧ waiting.iff1 = false ∧ waiting.halted = true) :=
  ⟨⟨start_running, rfl, rfl⟩, ⟨⟨rfl, rfl, rfl, rfl⟩, rfl⟩, ⟨⟨rfl, rfl, rfl, rfl⟩, rfl⟩,
    ⟨rfl, rfl, rfl, rfl⟩, rfl, rfl⟩

/-- EI then NOP, with an interrupt pending. -/
theorem witness_EnableTakesEffectAfterOneInstruction :
    (code [0xFB] { start with icPending := true }).Ready ∧
    (code [0xFB] { start with icPending := true }).fetched = .ei ∧
    ∃ t u, step (code [0xFB] { start with icPending := true }) = .next t ∧ step t = .next u ∧
      t.fetched ≠ .ei ∧ t.fetched ≠ .di :=
  ⟨⟨⟨rfl, rfl, rfl, rfl⟩, rfl, rfl⟩, rfl, _, _, rfl, rfl, by decide, by decide⟩

/-- Halted with interrupts off, and halted with interrupts on and nothing pending. -/
theorem witness_HaltedMachineIdles :
    (waiting.Running ∧ waiting.halted = true ∧ waiting.eiDelay = false ∧ waiting.iff1 = false ∧
      0 < (1 : BitVec 32).toInt) ∧
    ({ waiting with iff1 := true }.Running ∧ { waiting with iff1 := true }.icPending = false) :=
  ⟨⟨⟨rfl, rfl, rfl, rfl⟩, rfl, rfl, rfl, by decide⟩, ⟨rfl, rfl, rfl, rfl⟩, rfl⟩

theorem witness_HungMachineStaysHung :
    ({ start with halted := true }.handle = .live ∧ { start with halted := true }.memInstalled = true ∧
      { start with halted := true }.halted = true ∧ { start with halted := true }.iff2 = false) ∧
    ((code [0x76] start).Ready ∧ (code [0x76] start).iff2 = false ∧
      (code [0x76] start).readByte (code [0x76] start).pc = 0x76 ∧ 0 < (1 : BitVec 32).toInt) :=
  ⟨⟨rfl, rfl, rfl, rfl⟩, ⟨⟨rfl, rfl, rfl, rfl⟩, rfl, rfl⟩, rfl, rfl, by decide⟩

/-- One lock value and one pending flag for each clause. -/
theorem witness_LockPostAndClear :
    start.handle = .live ∧
    { start with icLock := .invalid }.acquire .core .blocking = .failed .invalidState ∧
    { start with icLock := .held .core }.acquire .core .blocking = .failed .deadlock ∧
    { start with icLock := .held .core }.acquire .core .nonBlocking = .failed .wouldBlock ∧
    { start with icLock := .held (.poster 1) }.acquire (.poster 0) .blocking = .waits ∧
    (Agent.poster 1 ≠ Agent.poster 0) ∧
    (start.icLock = .free ∧ start.icPending = false ∧ (offered .im0 0).icPending = true) := by
  decide

/-- The four rows of Property 5 in 95_test_vectors.md, posters A = 0 and B = 1. -/
theorem witness_OneOfTwoPostersWins :
    start.handle = .live ∧ start.icLock = .free ∧ start.icPending = false ∧ (0 : Nat) ≠ 1 ∧
    (System.idle start).reacts [.acquire 0 .nonBlocking, .acquire 1 .nonBlocking, .post 0 0x11] =
      some ⟨{ start with icPending := true, icBus := 0x11 }, none, [], [(0, .ok), (1, .wouldBlock)]⟩ ∧
    (System.idle start).reacts [.acquire 1 .nonBlocking, .acquire 0 .nonBlocking, .post 1 0x22] =
      some ⟨{ start with icPending := true, icBus := 0x22 }, none, [], [(1, .ok), (0, .wouldBlock)]⟩ ∧
    (System.idle start).reacts
        [.acquire 0 .nonBlocking, .post 0 0x11, .acquire 1 .nonBlocking, .post 1 0x22] =
      some ⟨{ start with icPending := true, icBus := 0x11 }, none, [],
        [(1, .other .alreadyPending), (0, .ok)]⟩ ∧
    (System.idle start).reacts
        [.acquire 1 .nonBlocking, .post 1 0x22, .acquire 0 .nonBlocking, .post 0 0x11] =
      some ⟨{ start with icPending := true, icBus := 0x22 }, none, [],
        [(0, .other .alreadyPending), (1, .ok)]⟩ := by
  decide

/-- The orders above are permutations of the two calls' steps. -/
theorem witness_orders :
    [Event.acquire 1 .nonBlocking, .acquire 0 .nonBlocking, .post 1 0x22].Perm
      [.acquire 0 .nonBlocking, .acquire 1 .nonBlocking, .post 1 0x22] ∧
    [Event.acquire 1 .nonBlocking, .post 1 0x22, .acquire 0 .nonBlocking, .post 0 0x11].Perm
      [.acquire 0 .nonBlocking, .post 0 0x11, .acquire 1 .nonBlocking, .post 1 0x22] ∧
    [Event.acquire 0 .nonBlocking, .acquire 1 .nonBlocking, .post 0 0x11].Perm
      [.acquire 0 .nonBlocking, .post 0 0x11, .acquire 1 .nonBlocking] := by
  decide

/-- Every way a call ends: torn down, no memory, a lock of each kind, no budget, hung, and a NOP run. -/
theorem witness_ExecuteReturnsWithItsReason :
    start.teardown.handle = .tornDown ∧ { start with memInstalled := false }.memInstalled = false ∧
    start.handle = .live ∧ start.memInstalled = true ∧ start.icLock = .free ∧
    { start with halted := true }.execute 9 = .returned 0 (.hung 0) { start with halted := true } ∧
    waiting.execute 0 = .returned 0 (.halted 0) waiting ∧
    start.execute (-1) = .returned 0 .done start ∧
    (0 < (9 : BitVec 32).toInt ∧ start.hung = false) ∧
    { start with icLock := .invalid }.execute 9 =
      .returned 0 (.error .invalidState) { start with icLock := .invalid } ∧
    { start with icLock := .held .core }.execute 9 =
      .returned 0 (.error .deadlock) { start with icLock := .held .core } ∧
    { start with icLock := .held (.poster 2) }.execute 9 =
      .waits 9 0 { start with icLock := .held (.poster 2) } := by
  decide

/-- A call that ends Done and one that ends Halted. -/
theorem witness_BudgetOvershootIsBounded :
    (∃ t, start.execute 1 = .returned 4 .done t) ∧
    (∃ t, waiting.execute 1 = .returned 4 (.halted 4) t) ∧ 0 < (1 : BitVec 32).toInt :=
  ⟨⟨_, rfl⟩, ⟨_, rfl⟩, by decide⟩

/-- No NOP and two. -/
theorem witness_NopsConsumeFourEach :
    start.Ready ∧ start.iff1 = false ∧ (0 : BitVec 32).toInt = 4 * ((0 : Nat) : Int) ∧
    (8 : BitVec 32).toInt = 4 * ((2 : Nat) : Int) ∧
    ∀ k : Nat, k < 2 →
      answers start ((List.range k).map fun j => .read (start.pc + BitVec.ofNat 16 j))
        (start.pc + BitVec.ofNat 16 k) = 0 :=
  ⟨start_ready, rfl, by decide, by decide, by decide⟩

theorem witness_BudgetOneSingleSteps : start.Running ∧ ∃ t, step start = .next t :=
  ⟨start_running, _, rfl⟩

/-- An instruction that stores, on the reference provider and on another, and an address outside. -/
theorem witness_MemoryFrame :
    start.mem.isReference = true ∧ (∃ t, exec (.ldHlN 0x28) start = .next t) ∧
    (1 : Word) ∉ storedTo start (.ldHlN 0x28) ∧
    ∃ t, exec (.ldHlN 0x28) { start with mem := mapped } = .next t :=
  ⟨rfl, ⟨_, rfl⟩, by decide, _, rfl⟩

theorem witness_FlagFrame : (∃ t, exec .cpl start = .next t) ∧ 0 ∉ flagBits .cpl :=
  ⟨⟨_, rfl⟩, by decide⟩

theorem witness_ControlStateWriters :
    (∃ t, exec .nop start = .next t) ∧ Instr.nop ≠ .ei ∧ Instr.nop ≠ .di ∧ Instr.nop ≠ .retn ∧
    Instr.nop ≠ .im0 ∧ Instr.nop ≠ .im1 ∧ Instr.nop ≠ .im2 ∧ Instr.nop ≠ .halt ∧
    Instr.nop ≠ .ldIregA ∧ Instr.nop ≠ .ldRregA ∧ Instr.nop ≠ .exAfAf ∧ Instr.nop ≠ .exx ∧
    writesPC .nop = false ∧ reachesPort .nop = false :=
  ⟨⟨_, rfl⟩, by decide⟩

theorem witness_SystemRegisterLoads :
    ((code [0xED, 0x5F] start).Ready ∧ (code [0xED, 0x5F] start).fetched = .ldARreg) ∧
    ((code [0xED, 0x4F] start).Ready ∧ (code [0xED, 0x4F] start).fetched = .ldRregA) :=
  ⟨⟨⟨⟨rfl, rfl, rfl, rfl⟩, rfl, rfl⟩, rfl⟩, ⟨⟨rfl, rfl, rfl, rfl⟩, rfl, rfl⟩, rfl⟩

/-- Both ends of the range of two-digit numbers. -/
theorem witness_DecimalArithmetic :
    (0 < 100 ∧ 99 < 100 ∧ start.main.a = packBcd 0) ∧
    { start with main := { start.main with a := 0x99 } }.main.a = packBcd 99 := by
  decide

/-- A condition that holds and one that does not. -/
theorem witness_Jumps : Taken start .nz ∧ ¬ Taken start .z := by decide

theorem witness_CallsAndReturns : Taken start .po ∧ ¬ Taken start .m := by decide

/-- An empty port; a port with a device that has an answer arranged. -/
theorem witness_PortTransfers :
    tableGet start.ports (0xFF : Byte).toNat = none ∧
    tableGet { start with ports := [(255, 4)] }.ports (0xFF : Byte).toNat = some 4 ∧
    ({ start with devices := [(4, ⟨[0x7B], []⟩)] }.device 4).answers = 0x7B :: [] ∧
    (5 : Nat) ≠ 4 := by
  decide

/-- The bytes beside the documented ones. -/
theorem witness_FallbacksDoNothing :
    (0x00 : Byte) ∉ edDocumented ∧ (0x70 : Byte) ∉ edDocumented ∧ (0xFF : Byte) ∉ edDocumented ∧
    ((0x00 : Byte) ≠ 0xCB ∧ (0x00 : Byte) ∉ xyDocumented) ∧
    ((0xFD : Byte) ≠ 0xCB ∧ (0xFD : Byte) ∉ xyDocumented) ∧ (0x47 : Byte) ∉ xyCbDocumented := by
  decide

/-! ### The host's interface -/

/-- Words as spec/opcode_table.json has them: one byte, two bytes, four bytes (log entry 11). -/
theorem test_decodeTableWord :
    decodeTableWord 8 0x06 = some (.ldRN .b 0) ∧ decodeTableWord 16 0xED4F = some .ldRregA ∧
    decodeTableWord 32 0xDDCB0006 = some (.rlcIxD 0) :=
  ⟨rfl, rfl, rfl⟩

/-- A placed word is what the next step runs, from reset. -/
theorem test_withFetchWord :
    (State.reset.withFetchWord 16 0xED4F).Ready ∧
    (State.reset.withFetchWord 16 0xED4F).fetched = .ldRregA :=
  ⟨⟨⟨rfl, rfl, rfl, rfl⟩, rfl, rfl⟩, rfl⟩

/-! ### Providers other than flat RAM -/

/-- Each kind of region in a state. -/
theorem witness_MemoryPortAccesses :
    start.mem.isReference = true ∧ ({ start with mem := mapped }).mem = mapped ∧
    ({ start with mem := mapped }).afterRead 0x4000 = { start with mem := mapped } ∧
    ({ start with mem := mapped }).writeByte 0x20FF 0x55 = { start with mem := mapped } ∧
    ({ start with mem := mapped }).writeByte 0x4000 0x55 = { start with mem := mapped } ∧
    (({ start with mem := mapped }).writeByte 0x8010 0x55).readByte 0x0010 = 0x55 := by
  decide

/-- R71: a store to a read-only region is ignored, and the program there goes on. -/
theorem test_store_to_rom :
    runs { start with
        pc := 0x2000
        main := { start.main with h := 0x20, l := 0x00 }
        mem := .backed [⟨0x2000, 0x100, .cells 0 false⟩] [(0, 0x36), (1, 0x12)] } fun t =>
      t.readByte 0x2000 = 0x36 ∧ t.pc = 0x2002 := by
  decide

/-- R78: one read per byte, and one look-ahead after DD. -/
theorem test_fetch_reads :
    (code [0xDD, 0x7E, 0x80] start).fetchReads =
      [.read 0x0100, .read 0x0101, .read 0x0101, .read 0x0102] ∧
    (code [0xDD, 0x44] start).fetchReads = [.read 0x0100, .read 0x0101] ∧
    (code [0x76] start).fetchReads = [.read 0x0100] ∧
    (code [0x34, 0x12] start).injectReads 0xCD = [.read 0x0100, .read 0x0101] := by
  decide

/-- R174: `EX (SP),HL` reads two bytes, low first, then writes two, high first; latest first in the log. -/
theorem test_access_log :
    ∃ t, exec .exSpHl { start with sp := 0x4000, mem := .host 3 [] } = .next t ∧
      t.mem = .host 3
        [.write 0x4000 0x00, .write 0x4001 0x00, .read 0x4001, .read 0x4000] :=
  ⟨_, rfl, rfl⟩

end Sys2Proof.Tests
end

section
/-! PROOFS. 00_scope.md: every instruction completes (R12, 60_exceptions.md R363). -/

namespace Sys2Proof.Machine

/-- No arm of the dispatch faults or refuses: each constructor's meaning is a next state outright, its
conditions inside that state and never around the outcome. -/
theorem exec_completes (i : Instr) (s : State) : ∃ t : State, exec i s = .next t := by
  cases i <;> exact ⟨_, rfl⟩

/-- Settles O10: a next state for each constructor of `Instr`. -/
theorem everyInstructionCompletes : Obligations.EveryInstructionCompletes :=
  exec_completes

end Sys2Proof.Machine
end

section
/-! PROOFS. What an instruction's operation does to the state outside the main registers, IX, IY, SP, PC and
memory: its control state and the devices (10_state.md R40 to R57), said once for every instruction. -/

namespace Sys2Proof.Machine

/-! ### The control state -/

/-- A state with the main registers, IX, IY, SP, PC and memory blanked: two states with the same control
state agree on every other field. -/
def State.control (s : State) : State :=
  { s with main := ⟨0, 0, 0, 0, 0, 0, 0, 0⟩, ix := 0, iy := 0, sp := 0, pc := 0, mem := .reference [] }

section ControlOfUpdates

variable (s : State)

@[simp] theorem control_setR8 (r : R8) (v : Byte) : (s.setR8 r v).control = s.control := by
  cases r <;> rfl
@[simp] theorem control_setFlags (g : Flags) : (s.setFlags g).control = s.control := rfl
@[simp] theorem control_setBC (w : Word) : (s.setBC w).control = s.control := rfl
@[simp] theorem control_setDE (w : Word) : (s.setDE w).control = s.control := rfl
@[simp] theorem control_setHL (w : Word) : (s.setHL w).control = s.control := rfl
@[simp] theorem control_setSP (w : Word) : (s.setSP w).control = s.control := rfl
@[simp] theorem control_setPC (w : Word) : (s.setPC w).control = s.control := rfl
@[simp] theorem control_setIdx (x : Idx) (w : Word) : (s.setIdx x w).control = s.control := by
  cases x <;> rfl
@[simp] theorem control_setDd (p : PairDd) (w : Word) : (s.setDd p w).control = s.control := by
  cases p <;> rfl
@[simp] theorem control_setQq (p : PairQq) (w : Word) : (s.setQq p w).control = s.control := by
  cases p <;> rfl
@[simp] theorem control_afterRead (a : Word) : (s.afterRead a).control = s.control := rfl
@[simp] theorem control_afterReadWord (a : Word) : (s.afterReadWord a).control = s.control := rfl
@[simp] theorem control_writeByte (a : Word) (v : Byte) : (s.writeByte a v).control = s.control := rfl
@[simp] theorem control_writeWord (a w : Word) : (s.writeWord a w).control = s.control := rfl
@[simp] theorem control_push (w : Word) : (s.push w).control = s.control := rfl
@[simp] theorem control_call (w : Word) : (s.call w).control = s.control := rfl
@[simp] theorem control_dropTop : s.dropTop.control = s.control := rfl
@[simp] theorem control_popPC : s.popPC.control = s.control := rfl
@[simp] theorem control_replaceTop (w : Word) : (s.replaceTop w).control = s.control := by
  simp [State.replaceTop]
@[simp] theorem control_afterLoad (p : Place) : (s.afterLoad p).control = s.control := by
  cases p <;> rfl
@[simp] theorem control_store (p : Place) (v : Byte) : (s.store p v).control = s.control := by
  cases p <;> simp [State.store]
@[simp] theorem control_repeatIf (b : Bool) : (s.repeatIf b).control = s.control := by
  unfold State.repeatIf; split <;> rfl
@[simp] theorem control_ite (c : Prop) [Decidable c] (t u : State) :
    (if c then t else u).control = if c then t.control else u.control := apply_ite ..

@[simp] theorem control_ports : s.control.ports = s.ports := rfl
@[simp] theorem control_device (id : Nat) : s.control.device id = s.device id := rfl
@[simp] theorem control_setDevice (id : Nat) (d : Device) :
    (s.setDevice id d).control = s.control.setDevice id d := rfl

/-- What a port read does depends on the control state alone. -/
@[simp] theorem control_afterIoRead (p : Byte) :
    (s.afterIoRead p).control = s.control.afterIoRead p := by
  cases hp : tableGet s.ports p.toNat <;> simp [State.afterIoRead, hp]

/-- What a port write does depends on the control state alone. -/
@[simp] theorem control_ioWrite (p v : Byte) : (s.ioWrite p v).control = s.control.ioWrite p v := by
  cases hp : tableGet s.ports p.toNat <;> simp [State.ioWrite, hp]

/-! The operations that a family of instructions shares. -/

@[simp] theorem control_aluA (op : AluOp) (v : Byte) : (s.aluA op v).control = s.control := rfl
@[simp] theorem control_aluPlace (op : AluOp) (p : Place) :
    (s.aluPlace op p).control = s.control := by simp [State.aluPlace]
@[simp] theorem control_incPlace (p : Place) : (s.incPlace p).control = s.control := by
  simp [State.incPlace]
@[simp] theorem control_decPlace (p : Place) : (s.decPlace p).control = s.control := by
  simp [State.decPlace]
@[simp] theorem control_shiftPlace (op : ShiftOp) (p : Place) :
    (s.shiftPlace op p).control = s.control := by simp [State.shiftPlace]
@[simp] theorem control_rotateA (op : ShiftOp) : (s.rotateA op).control = s.control := rfl
@[simp] theorem control_rotateDigits (av : Byte × Byte) :
    (s.rotateDigits av).control = s.control := rfl
@[simp] theorem control_testBit (b : BitVec 3) (p : Place) : (s.testBit b p).control = s.control := by
  simp [State.testBit]
@[simp] theorem control_setBit (b : BitVec 3) (p : Place) : (s.setBit b p).control = s.control := by
  simp [State.setBit]
@[simp] theorem control_resBit (b : BitVec 3) (p : Place) : (s.resBit b p).control = s.control := by
  simp [State.resBit]
@[simp] theorem control_addIdx (x : Idx) (p : PairPp) : (s.addIdx x p).control = s.control := by
  simp [State.addIdx]
@[simp] theorem control_loadSystem (v : Byte) : (s.loadSystem v).control = s.control := rfl
@[simp] theorem control_blockCopy (dir : Direction) : (s.blockCopy dir).control = s.control := rfl
@[simp] theorem control_blockCompare (dir : Direction) :
    (s.blockCompare dir).control = s.control := rfl
@[simp] theorem control_blockIn (dir : Direction) :
    (s.blockIn dir).control = s.control.afterIoRead s.main.c := by simp [State.blockIn]
@[simp] theorem control_blockOut (dir : Direction) :
    (s.blockOut dir).control = s.control.ioWrite s.main.c (s.readByte s.hl) := by
  simp [State.blockOut]

end ControlOfUpdates

/-- The state after an instruction writes what it writes of the control state and the devices, and nothing
else: R45 to R48 for the interrupt system, R40 and R41 for I and R, R32 for the shadow set, 20_memory.md R85
for the devices. -/
def controlAfter (i : Instr) (s : State) : State :=
  match i with
  | .halt => { s with halted := true }
  | .di => { s with iff1 := false, iff2 := false }
  | .ei => { s with iff1 := true, iff2 := true, eiDelay := true }
  | .retn => { s with iff1 := s.iff2 }
  | .im0 => { s with im := .im0 }
  | .im1 => { s with im := .im1 }
  | .im2 => { s with im := .im2 }
  | .ldIregA => { s with iReg := s.main.a }
  | .ldRregA => { s with rReg := s.main.a }
  | .exAfAf => { s with shadow := s.exchangeAF.shadow }
  | .exx => { s with shadow := s.exchangeBank.shadow }
  | .inAN n => s.afterIoRead n
  | .inRC _ | .ini | .inir | .ind | .indr => s.afterIoRead s.main.c
  | .outNA n => s.ioWrite n s.main.a
  | .outCR q => s.ioWrite s.main.c (s.getR8 q)
  | .outi | .otir | .outd | .otdr => s.ioWrite s.main.c (s.readByte s.hl)
  | _ => s

/-- WHAT AN INSTRUCTION DOES TO THE CONTROL STATE: the writers set their field, and every other meaning is a
composition of operations that leave the control state alone. -/
theorem exec_control {i : Instr} {s t : State} (h : exec i s = .next t) :
    t.control = (controlAfter i s).control := by
  cases i with
  | halt | di | ei | retn | im0 | im1 | im2 | ldIregA | ldRregA | exAfAf | exx => cases h; rfl
  | _ => cases h; simp [controlAfter]

/-! ### Who writes which piece -/

section Writers

variable {i : Instr} {s : State}

theorem controlAfter_iff2 (hei : i ≠ .ei) (hdi : i ≠ .di) : (controlAfter i s).iff2 = s.iff2 := by
  unfold controlAfter; split <;> simp_all

theorem controlAfter_iff1 (hei : i ≠ .ei) (hdi : i ≠ .di) (hretn : i ≠ .retn) :
    (controlAfter i s).iff1 = s.iff1 := by
  unfold controlAfter; split <;> simp_all

theorem controlAfter_im (h0 : i ≠ .im0) (h1 : i ≠ .im1) (h2 : i ≠ .im2) :
    (controlAfter i s).im = s.im := by
  unfold controlAfter; split <;> simp_all

theorem controlAfter_halted (hhalt : i ≠ .halt) : (controlAfter i s).halted = s.halted := by
  unfold controlAfter; split <;> simp_all

theorem controlAfter_eiDelay (hei : i ≠ .ei) : (controlAfter i s).eiDelay = s.eiDelay := by
  unfold controlAfter; split <;> simp_all

theorem controlAfter_iReg (hld : i ≠ .ldIregA) : (controlAfter i s).iReg = s.iReg := by
  unfold controlAfter; split <;> simp_all

theorem controlAfter_rReg (hld : i ≠ .ldRregA) : (controlAfter i s).rReg = s.rReg := by
  unfold controlAfter; split <;> simp_all

theorem controlAfter_shadow (hex : i ≠ .exAfAf) (hexx : i ≠ .exx) :
    (controlAfter i s).shadow = s.shadow := by
  unfold controlAfter; split <;> simp_all

theorem controlAfter_devices (hport : reachesPort i = false) :
    (controlAfter i s).devices = s.devices := by
  unfold controlAfter; split <;> simp_all [reachesPort]

variable (i s)

/-- No instruction writes the wiring. -/
theorem controlAfter_wiring : Part.wiring.same s (controlAfter i s) := by
  unfold controlAfter; split <;> simp [Part.same]

end Writers
end Sys2Proof.Machine
end

section
/-! PROOFS. 10_state.md: who writes which register of the control state (R32, R35, R40, R41, R45 to R48). -/

namespace Sys2Proof.Machine

section PCOfUpdates

variable (s : State)

@[simp] theorem store_pc (p : Place) (v : Byte) : (s.store p v).pc = s.pc := by
  cases p <;> simp [State.store]
@[simp] theorem aluA_pc (op : AluOp) (v : Byte) : (s.aluA op v).pc = s.pc := rfl
@[simp] theorem aluPlace_pc (op : AluOp) (p : Place) : (s.aluPlace op p).pc = s.pc := by
  simp [State.aluPlace]
@[simp] theorem incPlace_pc (p : Place) : (s.incPlace p).pc = s.pc := by simp [State.incPlace]
@[simp] theorem decPlace_pc (p : Place) : (s.decPlace p).pc = s.pc := by simp [State.decPlace]
@[simp] theorem shiftPlace_pc (op : ShiftOp) (p : Place) : (s.shiftPlace op p).pc = s.pc := by
  simp [State.shiftPlace]
@[simp] theorem rotateA_pc (op : ShiftOp) : (s.rotateA op).pc = s.pc := rfl
@[simp] theorem rotateDigits_pc (av : Byte × Byte) : (s.rotateDigits av).pc = s.pc := rfl
@[simp] theorem testBit_pc (b : BitVec 3) (p : Place) : (s.testBit b p).pc = s.pc := by
  simp [State.testBit]
@[simp] theorem setBit_pc (b : BitVec 3) (p : Place) : (s.setBit b p).pc = s.pc := by
  simp [State.setBit]
@[simp] theorem resBit_pc (b : BitVec 3) (p : Place) : (s.resBit b p).pc = s.pc := by
  simp [State.resBit]
@[simp] theorem addIdx_pc (x : Idx) (p : PairPp) : (s.addIdx x p).pc = s.pc := by
  simp [State.addIdx]
@[simp] theorem loadSystem_pc (v : Byte) : (s.loadSystem v).pc = s.pc := rfl
@[simp] theorem replaceTop_pc (w : Word) : (s.replaceTop w).pc = s.pc := by simp [State.replaceTop]
@[simp] theorem exchangeAF_pc : s.exchangeAF.pc = s.pc := rfl
@[simp] theorem exchangeBank_pc : s.exchangeBank.pc = s.pc := rfl
@[simp] theorem blockCopy_pc (dir : Direction) : (s.blockCopy dir).pc = s.pc := rfl
@[simp] theorem blockCompare_pc (dir : Direction) : (s.blockCompare dir).pc = s.pc := rfl
@[simp] theorem blockIn_pc (dir : Direction) : (s.blockIn dir).pc = s.pc := by simp [State.blockIn]
@[simp] theorem blockOut_pc (dir : Direction) : (s.blockOut dir).pc = s.pc := by
  simp [State.blockOut]

end PCOfUpdates

/-- PC stays past the fetched bytes unless the instruction jumps, calls, returns or repeats. -/
theorem exec_pc {i : Instr} {s t : State} (h : exec i s = .next t) (hpc : writesPC i = false) :
    t.pc = s.pc := by
  cases i with
  | jpNn | jpCcNn | jr | jrC | jrNc | jrZ | jrNz | jpHl | jpIx | jpIy | djnz | callNn | callCcNn
  | ret | retCc | reti | retn | rst | ldir | lddr | cpir | cpdr | inir | indr | otir | otdr =>
    cases hpc
  | _ => cases h; simp

/-- The wiring is part of the control state. -/
theorem wiring_of_control {s t u : State} (h : t.control = u.control) (hu : Part.wiring.same s u) :
    Part.wiring.same s t := by
  show Part.wiring.same s t.control
  rw [h]
  exact hu

/-- No instruction's operation changes the wiring. -/
theorem exec_wiring {i : Instr} {s t : State} (h : exec i s = .next t) : Part.wiring.same s t :=
  wiring_of_control (exec_control h) (controlAfter_wiring i s)

/-- Settles O31: PC by the instructions that write it, all else by the control state after the
instruction. -/
theorem controlStateWriters : Obligations.ControlStateWriters := by
  intro i s t h
  have hc := exec_control h
  refine ⟨fun hei hdi => ?iff2, fun hei hdi hretn => ?iff1, fun h0 h1 h2 => ?im, fun hh => ?halted,
    fun hei => ?eiDelay, fun hi => ?iReg, fun hr => ?rReg, fun haf hexx => ?shadow, exec_pc h,
    fun hport => ?devices, exec_wiring h⟩
  case iff2 => exact (congrArg State.iff2 hc).trans (controlAfter_iff2 hei hdi)
  case iff1 => exact (congrArg State.iff1 hc).trans (controlAfter_iff1 hei hdi hretn)
  case im => exact (congrArg State.im hc).trans (controlAfter_im h0 h1 h2)
  case halted => exact (congrArg State.halted hc).trans (controlAfter_halted hh)
  case eiDelay => exact (congrArg State.eiDelay hc).trans (controlAfter_eiDelay hei)
  case iReg => exact (congrArg State.iReg hc).trans (controlAfter_iReg hi)
  case rReg => exact (congrArg State.rReg hc).trans (controlAfter_rReg hr)
  case shadow => exact (congrArg State.shadow hc).trans (controlAfter_shadow haf hexx)
  case devices => exact (congrArg State.devices hc).trans (controlAfter_devices hport)

end Sys2Proof.Machine
end

section
/-! PROOFS. 10_state.md R55, 20_memory.md R70: the invariant, kept by every step and every schedule; and the
wiring a step leaves alone (R51, R52). -/

namespace Sys2Proof.Machine

/-! ### Memory stays in canonical form -/

section MemoryOfUpdates

variable {s : State}

theorem wf_afterLoad (h : s.mem.wf = true) (p : Place) : (s.afterLoad p).mem.wf = true := by
  cases p <;> simp [State.afterLoad, Provider.wf_after, h, -Provider.after_cons]

theorem wf_store (h : s.mem.wf = true) (p : Place) (v : Byte) : (s.store p v).mem.wf = true := by
  cases p <;> simp [State.store, Provider.wf_after, h, -Provider.after_cons]

theorem wf_ite (c : Prop) [Decidable c] {t u : State} (ht : t.mem.wf = true)
    (hu : u.mem.wf = true) : (if c then t else u).mem.wf = true := by
  split
  · exact ht
  · exact hu

variable (s)

@[simp] theorem aluA_mem (op : AluOp) (v : Byte) : (s.aluA op v).mem = s.mem := rfl
@[simp] theorem aluPlace_mem (op : AluOp) (p : Place) :
    (s.aluPlace op p).mem = (s.afterLoad p).mem := rfl
@[simp] theorem incPlace_mem (p : Place) :
    (s.incPlace p).mem = ((s.afterLoad p).store p (inc8 (s.load p) s.flags.c).1).mem := rfl
@[simp] theorem decPlace_mem (p : Place) :
    (s.decPlace p).mem = ((s.afterLoad p).store p (dec8 (s.load p) s.flags.c).1).mem := rfl
@[simp] theorem shiftPlace_mem (op : ShiftOp) (p : Place) :
    (s.shiftPlace op p).mem = ((s.afterLoad p).store p (shift8 op (s.load p) s.flags.c).1).mem := rfl
@[simp] theorem testBit_mem (b : BitVec 3) (p : Place) :
    (s.testBit b p).mem = (s.afterLoad p).mem := rfl
@[simp] theorem setBit_mem (b : BitVec 3) (p : Place) :
    (s.setBit b p).mem = ((s.afterLoad p).store p (s.load p ||| bitMask b)).mem := rfl
@[simp] theorem resBit_mem (b : BitVec 3) (p : Place) :
    (s.resBit b p).mem = ((s.afterLoad p).store p (s.load p &&& (255 - bitMask b))).mem := rfl
@[simp] theorem rotateA_mem (op : ShiftOp) : (s.rotateA op).mem = s.mem := rfl
@[simp] theorem rotateDigits_mem (av : Byte × Byte) :
    (s.rotateDigits av).mem = s.mem.after [.read s.hl, .write s.hl av.2] := rfl
@[simp] theorem addIdx_mem (x : Idx) (p : PairPp) : (s.addIdx x p).mem = s.mem := by
  simp [State.addIdx]
@[simp] theorem loadSystem_mem (v : Byte) : (s.loadSystem v).mem = s.mem := rfl
@[simp] theorem replaceTop_mem (w : Word) : (s.replaceTop w).mem = s.mem.after
    [.read s.sp, .read (s.sp + 1), .write (s.sp + 1) (hiByte w), .write s.sp (loByte w)] := by
  simp [State.replaceTop]
@[simp] theorem exchangeAF_mem : s.exchangeAF.mem = s.mem := rfl
@[simp] theorem exchangeBank_mem : s.exchangeBank.mem = s.mem := rfl
@[simp] theorem blockCompare_mem (dir : Direction) :
    (s.blockCompare dir).mem = s.mem.after [.read s.hl] := rfl

end MemoryOfUpdates

/-- The operations of the instructions reach memory by single accesses only. -/
theorem exec_keeps_wf {i : Instr} {s t : State} (hs : s.mem.wf = true) (h : exec i s = .next t) :
    t.mem.wf = true := by
  cases i <;> cases h <;>
    simp [Provider.wf_after, wf_afterLoad, wf_store, wf_ite, blockCopy_mem, blockIn_mem,
      blockOut_mem, call_mem, hs, -Provider.after_cons]

/-! ### The invariant -/

/-- Two states with one control state meet the invariant together, memory apart. -/
theorem inv_of_control {t u : State} (hm : t.mem.wf = true) (h : t.control = u.control)
    (hu : u.Inv) : t.Inv := by
  have hrest : tableSorted t.control.ports = true
      ∧ tableBelow Config.portSlots t.control.ports = true
      ∧ tableSorted t.control.devices = true ∧ t.control.iff1 = t.control.iff2 := by
    rw [h]
    exact ⟨hu.ports, hu.portRange, hu.devices, hu.flipFlops⟩
  obtain ⟨hports, hrange, hdev, hff⟩ := hrest
  exact ⟨hm, hports, hrange, hdev, hff⟩

theorem inv_afterIoRead {s : State} (hs : s.Inv) (p : Byte) : (s.afterIoRead p).Inv :=
  ⟨by simp [hs.memory], by simp [hs.ports], by simp [hs.portRange], sorted_afterIoRead hs.devices p,
    by simp [hs.flipFlops]⟩

theorem inv_ioWrite {s : State} (hs : s.Inv) (p v : Byte) : (s.ioWrite p v).Inv :=
  ⟨by simp [hs.memory], by simp [hs.ports], by simp [hs.portRange], sorted_ioWrite hs.devices p v,
    by simp [hs.flipFlops]⟩

/-- EI and DI write both flip-flops alike, RETN copies one to the other, and a port access keeps the device
table in order. -/
theorem inv_controlAfter {s : State} (hs : s.Inv) (i : Instr) : (controlAfter i s).Inv := by
  have ⟨hmem, hports, hrange, hdev, hff⟩ := hs
  cases i with
  | di | ei | retn => exact ⟨hmem, hports, hrange, hdev, rfl⟩
  | inAN | inRC | ini | inir | ind | indr => exact inv_afterIoRead hs _
  | outNA | outCR | outi | otir | outd | otdr => exact inv_ioWrite hs _ _
  | _ => exact ⟨hmem, hports, hrange, hdev, hff⟩

/-- Every instruction keeps the invariant. -/
theorem exec_keeps_inv {i : Instr} {s t : State} (hs : s.Inv) (h : exec i s = .next t) : t.Inv :=
  inv_of_control (exec_keeps_wf hs.memory h) (exec_control h) (inv_controlAfter hs i)

/-- Fetching makes reads alone. -/
theorem inv_advance {s : State} (hs : s.Inv) (reads : List Config.MemAccess) (n m1 : Nat) :
    (s.advance reads n m1).Inv := by
  rw [advance_eq]
  exact ⟨Provider.wf_after hs.memory reads, hs.ports, hs.portRange, hs.devices, hs.flipFlops⟩

theorem inv_acceptCommon {s : State} (hs : s.Inv) : s.acceptCommon.Inv :=
  ⟨hs.memory, hs.ports, hs.portRange, hs.devices, rfl⟩

theorem inv_acceptMode1 {s : State} (hs : s.Inv) : s.acceptMode1.Inv := by
  rw [acceptMode1_eq]
  exact ⟨Provider.wf_after hs.memory _, hs.ports, hs.portRange, hs.devices, hs.flipFlops⟩

theorem inv_acceptMode2 {s : State} (hs : s.Inv) : s.acceptMode2.Inv := by
  rw [acceptMode2_eq s _ rfl]
  exact ⟨Provider.wf_after hs.memory _, hs.ports, hs.portRange, hs.devices, hs.flipFlops⟩

/-- WHAT A STEP CAN BE: an acceptance in mode 0, which runs an instruction, in mode 1 or in mode 2, a halted
idle period, or the run of an instruction. The EI delay is over in each. -/
theorem step_cases {s t : State} (h : step s = .next t) :
    (s.accepts = true ∧ ∃ i reads n m1,
      exec i ({ s with eiDelay := false }.acceptCommon.advance reads n m1) = .next t) ∨
    (s.accepts = true ∧ t = { s with eiDelay := false }.acceptCommon.acceptMode1) ∨
    (s.accepts = true ∧ t = { s with eiDelay := false }.acceptCommon.acceptMode2) ∨
    (s.accepts = false ∧ t = { s with eiDelay := false }.haltedIdle) ∨
    (s.accepts = false ∧ ∃ i reads n m1,
      exec i ({ s with eiDelay := false }.advance reads n m1) = .next t) := by
  obtain ⟨-, hit⟩ := step_next h
  cases ha : s.accepts with
  | true =>
    obtain hm | hm | hm : s.im = .im0 ∨ s.im = .im1 ∨ s.im = .im2 := by cases s.im <;> simp
    · exact .inl ⟨rfl, _, _, _, _, (iteration_mode0 ha hm).symm.trans hit⟩
    · rw [iteration_mode1 ha hm] at hit
      cases hit
      exact .inr (.inl ⟨rfl, rfl⟩)
    · rw [iteration_mode2 ha hm] at hit
      cases hit
      exact .inr (.inr (.inl ⟨rfl, rfl⟩))
  | false =>
    obtain hh | hh : s.halted = true ∨ s.halted = false := by cases s.halted <;> simp
    · rw [iteration_idle ha hh] at hit
      cases hit
      exact .inr (.inr (.inr (.inl ⟨rfl, rfl⟩)))
    · exact .inr (.inr (.inr (.inr ⟨rfl, _, _, _, _, (iteration_runs ha hh).symm.trans hit⟩)))

/-- Settles O12: each kind of step keeps the invariant. -/
theorem stepKeepsInvariant : Obligations.StepKeepsInvariant := by
  intro s t hs h
  have hs' : { s with eiDelay := false }.Inv :=
    ⟨hs.memory, hs.ports, hs.portRange, hs.devices, hs.flipFlops⟩
  obtain ⟨-, i, reads, n, m1, he⟩ | ⟨-, rfl⟩ | ⟨-, rfl⟩ | ⟨-, rfl⟩ | ⟨-, i, reads, n, m1, he⟩ :=
    step_cases h
  · exact exec_keeps_inv (inv_advance (inv_acceptCommon hs') reads n m1) he
  · exact inv_acceptMode1 (inv_acceptCommon hs')
  · exact inv_acceptMode2 (inv_acceptCommon hs')
  · rw [haltedIdle_eq]
    exact ⟨hs.memory, hs.ports, hs.portRange, hs.devices, hs.flipFlops⟩
  · exact exec_keeps_inv (inv_advance hs' reads n m1) he

/-! ### Schedules -/

/-- The invariant says nothing of the interrupt controller. -/
theorem inv_controller {s : State} (hs : s.Inv) (lock : Lock) (pending : Bool) (bus : Byte) :
    { s with icLock := lock, icPending := pending, icBus := bus }.Inv :=
  ⟨hs.memory, hs.ports, hs.portRange, hs.devices, hs.flipFlops⟩

theorem inv_postHeld {s : State} (hs : s.Inv) (bus : Byte) : (s.postHeld bus).2.Inv := by
  unfold State.postHeld
  split
  · exact inv_controller hs .free s.icPending s.icBus
  · exact inv_controller hs .free true bus

/-- Every event keeps the invariant. -/
theorem react_keeps_inv {u v : System} {e : Event} (hu : u.state.Inv) (h : u.react e = some v) :
    v.state.Inv := by
  obtain hv | hstep | ⟨k, hv⟩ | ⟨bus, hv⟩ | hv := react_state h
  · rw [hv]; exact hu
  · exact stepKeepsInvariant _ _ hu hstep
  · rw [hv]; exact inv_controller hu (.held (.poster k)) u.state.icPending u.state.icBus
  · rw [hv]; exact inv_postHeld hu bus
  · rw [hv]; exact inv_controller hu .free false u.state.icBus

/-- Every schedule keeps the invariant. -/
theorem reacts_keeps_inv {es : List Event} {u v : System} (hu : u.state.Inv)
    (h : u.reacts es = some v) : v.state.Inv := by
  induction es generalizing u with
  | nil => cases h; exact hu
  | cons e es ih =>
    rw [System.reacts] at h
    split at h
    · rename_i w hw
      exact ih (react_keeps_inv hu hw) h
    · cases h

/-- Settles O13: the flip-flops agree as part of the invariant. -/
theorem schedulesKeepInvariant : Obligations.SchedulesKeepInvariant := fun _ _ _ hu h =>
  ⟨reacts_keeps_inv hu h, (reacts_keeps_inv hu h).flipFlops⟩

/-! ### The wiring -/

/-- An instruction's fetch and operation leave the wiring and the controller alone. -/
theorem exec_advance_wiring {i : Instr} {s t : State} {reads : List Config.MemAccess} {n m1 : Nat}
    (h : exec i (s.advance reads n m1) = .next t) :
    t.ports = s.ports ∧ t.memInstalled = s.memInstalled ∧ t.handle = s.handle
      ∧ t.icLock = s.icLock ∧ t.icBus = s.icBus ∧ t.icPending = s.icPending := by
  obtain ⟨-, -, hpend, hbus, hlock, hports, hmem, hhandle⟩ := exec_wiring h
  simp [State.advance, hpend, hbus, hlock, hports, hmem, hhandle]

/-- The pending flag after a step, by whether the step accepts. -/
theorem pending_after (s : State) :
    (s.icPending && !(s.iff1 && !s.eiDelay)) = (s.icPending && !s.accepts) := by
  cases hpend : s.icPending <;> simp [State.accepts, hpend]

/-- Settles O14: no kind of step writes the wiring but an acceptance, which clears the pending flag. -/
theorem stepsKeepTheWiring : Obligations.StepsKeepTheWiring := by
  intro s t h
  rw [pending_after]
  obtain ⟨ha, i, reads, n, m1, he⟩ | ⟨ha, rfl⟩ | ⟨ha, rfl⟩ | ⟨ha, rfl⟩ | ⟨ha, i, reads, n, m1, he⟩ :=
    step_cases h <;> rw [ha]
  case inl => simpa [State.acceptCommon] using exec_advance_wiring he
  case inr.inl => simp [acceptMode1_eq, State.acceptCommon]
  case inr.inr.inl => simp [acceptMode2_eq _ _ rfl, State.acceptCommon]
  case inr.inr.inr.inl => simp [haltedIdle_eq]
  case inr.inr.inr.inr => simpa using exec_advance_wiring he

end Sys2Proof.Machine
end

section
/-! PROOFS. 10_state.md R36 to R39: which bits of F an instruction changes. -/

namespace Sys2Proof.Machine

/-! ### F after each shared operation -/

section FlagsOfUpdates

variable (s : State)

@[simp] theorem setDd_f (p : PairDd) (w : Word) : (s.setDd p w).main.f = s.main.f := by
  cases p <;> rfl
@[simp] theorem store_f (p : Place) (v : Byte) : (s.store p v).main.f = s.main.f := by
  cases p <;> simp [State.store]
@[simp] theorem aluA_f (op : AluOp) (v : Byte) :
    (s.aluA op v).main.f = putFlags s.main.f (alu8 op s.main.a v s.flags.c).2 := rfl
@[simp] theorem aluPlace_f (op : AluOp) (p : Place) : (s.aluPlace op p).main.f =
    putFlags s.main.f (alu8 op s.main.a (s.load p) s.flags.c).2 := by
  simp [State.aluPlace, State.flags]
@[simp] theorem incPlace_f (p : Place) :
    (s.incPlace p).main.f = putFlags s.main.f (inc8 (s.load p) s.flags.c).2 := by
  simp [State.incPlace]
@[simp] theorem decPlace_f (p : Place) :
    (s.decPlace p).main.f = putFlags s.main.f (dec8 (s.load p) s.flags.c).2 := by
  simp [State.decPlace]
@[simp] theorem shiftPlace_f (op : ShiftOp) (p : Place) : (s.shiftPlace op p).main.f =
    putFlags s.main.f (shiftFlags (shift8 op (s.load p) s.flags.c).1
      (shift8 op (s.load p) s.flags.c).2) := by
  simp [State.shiftPlace]
@[simp] theorem rotateA_f (op : ShiftOp) : (s.rotateA op).main.f = putFlags s.main.f
    { s.flags with h := false, n := false, c := (shift8 op s.main.a s.flags.c).2 } := rfl
@[simp] theorem rotateDigits_f (av : Byte × Byte) :
    (s.rotateDigits av).main.f = putFlags s.main.f (byteFlags av.1 s.flags) := rfl
@[simp] theorem testBit_f (b : BitVec 3) (p : Place) : (s.testBit b p).main.f = putFlags s.main.f
    { s.flags with z := !(s.load p).getLsbD b.toNat, h := true, n := false } := by
  simp [State.testBit]
@[simp] theorem setBit_f (b : BitVec 3) (p : Place) : (s.setBit b p).main.f = s.main.f := by
  simp [State.setBit]
@[simp] theorem resBit_f (b : BitVec 3) (p : Place) : (s.resBit b p).main.f = s.main.f := by
  simp [State.resBit]
@[simp] theorem addIdx_f (x : Idx) (p : PairPp) : (s.addIdx x p).main.f =
    putFlags s.main.f (add16 (s.getIdx x) (s.getPp x p) s.flags).2 := by
  simp [State.addIdx]
@[simp] theorem loadSystem_f (v : Byte) : (s.loadSystem v).main.f = putFlags s.main.f
    { s.flags with s := v.getLsbD 7, z := v == 0, h := false, pv := s.iff2, n := false } := rfl
@[simp] theorem replaceTop_f (w : Word) : (s.replaceTop w).main.f = s.main.f := by
  simp [State.replaceTop]
@[simp] theorem exchangeBank_f : s.exchangeBank.main.f = s.main.f := rfl
@[simp] theorem call_f (w : Word) : (s.call w).main.f = s.main.f := rfl
@[simp] theorem blockCopy_f (dir : Direction) : (s.blockCopy dir).main.f = putFlags s.main.f
    { s.flags with h := false, n := false, pv := s.bc - 1 != 0 } := rfl
@[simp] theorem blockCompare_f (dir : Direction) : (s.blockCompare dir).main.f = putFlags s.main.f
    { (sub8 s.main.a (s.readByte s.hl) false).2 with pv := s.bc - 1 != 0, c := s.flags.c } := rfl
@[simp] theorem blockIn_f (dir : Direction) : (s.blockIn dir).main.f =
    putFlags s.main.f (blockIoFlags (s.main.b - 1) s.flags) := by
  simp [State.blockIn]
@[simp] theorem blockOut_f (dir : Direction) : (s.blockOut dir).main.f =
    putFlags s.main.f (blockIoFlags (s.main.b - 1) s.flags) := by
  simp [State.blockOut]
@[simp] theorem repeatIf_f (b : Bool) : (s.repeatIf b).main.f = s.main.f := by simp
@[simp] theorem f_ite (c : Prop) [Decidable c] (t u : State) :
    (if c then t else u).main.f = if c then t.main.f else u.main.f :=
  apply_ite (fun v : State => v.main.f) ..

end FlagsOfUpdates

/-! ### A row of the table of R37 -/

/-- Flags that keep the old ones of F outside a row of bits. -/
def KeepsOutside (row : List Nat) (f : Byte) (g : Flags) : Prop :=
  (7 ∉ row → g.s = f.getLsbD 7) ∧ (6 ∉ row → g.z = f.getLsbD 6) ∧ (4 ∉ row → g.h = f.getLsbD 4) ∧
  (2 ∉ row → g.pv = f.getLsbD 2) ∧ (1 ∉ row → g.n = f.getLsbD 1) ∧ (0 ∉ row → g.c = f.getLsbD 0)

/-- Where such flags are written, no bit of F outside the row changes, bits 5 and 3 included. -/
theorem bits_outside {row : List Nat} {s t : State} {g : Flags}
    (hf : t.main.f = putFlags s.main.f g) (hg : KeepsOutside row s.main.f g) (k : Nat) (hk : k ∉ row) :
    t.main.f.getLsbD k = s.main.f.getLsbD k := by
  obtain ⟨h7, h6, h4, h2, h1, h0⟩ := hg
  rw [hf]
  exact putFlags_keeps s.main.f g k (fun h => h0 (h ▸ hk)) (fun h => h1 (h ▸ hk))
    (fun h => h2 (h ▸ hk)) (fun h => h4 (h ▸ hk)) (fun h => h6 (h ▸ hk)) (fun h => h7 (h ▸ hk))

/-- The row of the six flags. -/
theorem keepsOutside_six (f : Byte) (g : Flags) : KeepsOutside [7, 6, 4, 2, 1, 0] f g := by
  simp [KeepsOutside]

/-- The row of an instruction that keeps C. -/
theorem keepsOutside_carry {f : Byte} {g : Flags} (hc : g.c = f.getLsbD 0) :
    KeepsOutside [7, 6, 4, 2, 1] f g := by
  simp [KeepsOutside, hc]

/-- The row of an instruction that keeps S, Z and P/V. -/
theorem keepsOutside_szp (s : State) (h n c : Bool) :
    KeepsOutside [4, 1, 0] s.main.f { s.flags with h := h, n := n, c := c } := by
  simp [KeepsOutside, State.flags, flagsOf]

/-- The row of block transfer, which keeps S, Z and C. -/
theorem keepsOutside_szc (s : State) (h pv n : Bool) :
    KeepsOutside [4, 2, 1] s.main.f { s.flags with h := h, pv := pv, n := n } := by
  simp [KeepsOutside, State.flags, flagsOf]

/-- The row of block input and output, Z and N. -/
theorem keepsOutside_blockIo (s : State) (b : Byte) :
    KeepsOutside [6, 1] s.main.f (blockIoFlags b s.flags) := by
  simp [KeepsOutside, blockIoFlags, State.flags, flagsOf]

/-- A row of all eight bits leaves nothing to keep. -/
theorem bits_of_byte {f f' : Byte} (k : Nat) (hk : k ∉ [7, 6, 5, 4, 3, 2, 1, 0]) :
    f'.getLsbD k = f.getLsbD k := by
  have hk8 : 8 ≤ k := by simp at hk; omega
  rw [BitVec.getLsbD_of_ge _ _ hk8, BitVec.getLsbD_of_ge _ _ hk8]

/-- Flags written last, by an operation that reaches F no other way. -/
theorem setFlags_f_of {s t : State} (h : t.main.f = s.main.f) (g : Flags) :
    (t.setFlags g).main.f = putFlags s.main.f g := by
  rw [setFlags_f, h]

/-- Settles O30: POP AF and EX AF,AF' have the whole byte for their row; the others write flags that keep
those outside their row, or do not reach F. -/
theorem flagFrame : Obligations.FlagFrame := by
  intro i s t h
  cases i with
  | exAfAf => exact bits_of_byte
  | popQq p =>
    cases p with
    | af => exact bits_of_byte
    | bc | de | hl => cases h; exact fun _ _ => rfl
  | addR | addN | adcR | adcN | subR | subN | sbcR | sbcN | andR | andN | orR | orN | xorR | xorN
  | cpR | cpN => cases h; exact bits_outside (aluA_f ..) (keepsOutside_six ..)
  | addHl | addIxD | addIyD | adcHl | adcIxD | adcIyD | subHl | subIxD | subIyD | sbcHl | sbcIxD
  | sbcIyD | andHl | andIxD | andIyD | orHl | orIxD | orIyD | xorHl | xorIxD | xorIyD | cpHl | cpIxD
  | cpIyD => cases h; exact bits_outside (aluPlace_f ..) (keepsOutside_six ..)
  | rlcR | rlcHl | rlcIxD | rlcIyD | rlR | rlHl | rlIxD | rlIyD | rrcR | rrcHl | rrcIxD | rrcIyD
  | rrR | rrHl | rrIxD | rrIyD | slaR | slaHl | slaIxD | slaIyD | sraR | sraHl | sraIxD | sraIyD
  | srlR | srlHl | srlIxD | srlIyD =>
    cases h
    exact bits_outside (shiftPlace_f ..) (keepsOutside_six ..)
  | neg | adcHlSs | sbcHlSs =>
    cases h
    exact bits_outside (setFlags_f_of (by simp) _) (keepsOutside_six ..)
  | incR | incHl | incIxD | incIyD =>
    cases h
    exact bits_outside (incPlace_f ..) (keepsOutside_carry rfl)
  | decR | decHl | decIxD | decIyD =>
    cases h
    exact bits_outside (decPlace_f ..) (keepsOutside_carry rfl)
  | rld | rrd => cases h; exact bits_outside (rotateDigits_f ..) (keepsOutside_carry rfl)
  | inRC => cases h; exact bits_outside (setFlags_f_of (by simp) _) (keepsOutside_carry rfl)
  | ldAIreg | ldARreg => cases h; exact bits_outside (loadSystem_f ..) (keepsOutside_carry rfl)
  | cpi | cpd => cases h; exact bits_outside (blockCompare_f ..) (keepsOutside_carry rfl)
  | cpir | cpdr =>
    cases h
    exact bits_outside ((repeatIf_f ..).trans (blockCompare_f ..)) (keepsOutside_carry rfl)
  | addHlSs => cases h; exact bits_outside (setFlags_f_of (by simp) _) (keepsOutside_szp ..)
  | addIxPp | addIyRr => cases h; exact bits_outside (addIdx_f ..) (keepsOutside_szp ..)
  | rlca | rla | rrca | rra => cases h; exact bits_outside (rotateA_f ..) (keepsOutside_szp ..)
  | scf | ccf => cases h; exact bits_outside (setFlags_f_of (by simp) _) (keepsOutside_szp ..)
  | cpl =>
    cases h
    exact bits_outside (setFlags_f_of (by simp) _)
      (by simp [KeepsOutside, flagBits, State.flags, flagsOf])
  | daa =>
    cases h
    exact bits_outside (setFlags_f_of (by simp) _)
      (by simp [KeepsOutside, flagBits, daa8, State.flags, flagsOf])
  | bitR | bitHl | bitIxD | bitIyD =>
    cases h
    exact bits_outside (testBit_f ..) (by simp [KeepsOutside, flagBits, State.flags, flagsOf])
  | ldi | ldd => cases h; exact bits_outside (blockCopy_f ..) (keepsOutside_szc ..)
  | ldir | lddr =>
    cases h
    exact bits_outside ((repeatIf_f ..).trans (blockCopy_f ..)) (keepsOutside_szc ..)
  | ini | ind => cases h; exact bits_outside (blockIn_f ..) (keepsOutside_blockIo ..)
  | inir | indr =>
    cases h
    exact bits_outside ((repeatIf_f ..).trans (blockIn_f ..)) (keepsOutside_blockIo ..)
  | outi | outd => cases h; exact bits_outside (blockOut_f ..) (keepsOutside_blockIo ..)
  | otir | otdr =>
    cases h
    exact bits_outside ((repeatIf_f ..).trans (blockOut_f ..)) (keepsOutside_blockIo ..)
  | _ => cases h; exact fun _ _ => by simp

end Sys2Proof.Machine
end

section
/-! PROOFS. 10_state.md R31: register pairs and their halves. -/

namespace Sys2Proof.Machine

section Halves

variable (s : State) (w : Word)

theorem setAF_keeps : Keeps (qqParts .af) s (s.setAF w) := by
  intro p hp
  cases p <;> simp_all [Part.same, qqParts, getR8_setAF]

theorem setBC_keeps : Keeps (qqParts .bc) s (s.setBC w) := by
  intro p hp
  cases p <;> simp_all [Part.same, qqParts, getR8_setBC]

theorem setDE_keeps : Keeps (qqParts .de) s (s.setDE w) := by
  intro p hp
  cases p <;> simp_all [Part.same, qqParts, getR8_setDE]

theorem setHL_keeps : Keeps (qqParts .hl) s (s.setHL w) := by
  intro p hp
  cases p <;> simp_all [Part.same, qqParts, getR8_setHL]

theorem setR8_keeps (r : R8) (v : Byte) : Keeps [.r8 r] s (s.setR8 r v) := by
  intro p hp
  cases p <;> simp_all [Part.same]

end Halves

/-- Settles O4: a pair is `wordOf` its halves, whose numbers and whose reads after a write are known. -/
theorem pairsAreTheirHalves : Obligations.PairsAreTheirHalves := by
  intro s w r v
  refine ⟨⟨?_, ?_, ?_, ?_⟩, ⟨?_, ?_, ?_, ?_⟩,
    ⟨setAF_keeps s w, setBC_keeps s w, setDE_keeps s w, setHL_keeps s w⟩,
    by simp, setR8_keeps s r v⟩
  · exact wordOf_toNat s.main.f s.main.a
  · exact wordOf_toNat s.main.c s.main.b
  · exact wordOf_toNat s.main.e s.main.d
  · exact wordOf_toNat s.main.l s.main.h
  all_goals exact wordOf_lo_hi w

end Sys2Proof.Machine
end

section
/-! PROOFS. 10_state.md R56, 70_reset_and_hazards.md R400 to R402: what init and reset leave, and the first
fetch after them. -/

namespace Sys2Proof.Machine

/-- A register set made from its pairs reads as these. -/
theorem ofPairs_pairs (af bc de hl : Word) :
    (Regs.ofPairs af bc de hl).af = af ∧ (Regs.ofPairs af bc de hl).bc = bc
      ∧ (Regs.ofPairs af bc de hl).de = de ∧ (Regs.ofPairs af bc de hl).hl = hl :=
  ⟨wordOf_lo_hi af, wordOf_lo_hi bc, wordOf_lo_hi de, wordOf_lo_hi hl⟩

/-- The reset table holds of the initial registers, whatever is wired to them. -/
theorem resetValues_wired (g : Config.ResetGpr) (s : State) :
    ResetValues g { State.initWith g with
      ports := s.ports, devices := s.devices, memInstalled := s.memInstalled, mem := s.mem
      wzSeq := s.wzSeq } where
  pc := rfl
  system := ⟨rfl, rfl, rfl, rfl, rfl, rfl, rfl⟩
  main := ofPairs_pairs g.af g.bc g.de g.hl
  shadow := ofPairs_pairs g.afShadow g.bcShadow g.deShadow g.hlShadow
  words := ⟨rfl, rfl, rfl⟩
  line := ⟨rfl, rfl, rfl⟩
  handle := rfl

/-- Reset of a live handle keeps what the host has wired. -/
theorem hostReset_live {s : State} (h : s.handle = .live) (g : Config.ResetGpr) :
    s.hostReset g = { State.initWith g with
      ports := s.ports, devices := s.devices, memInstalled := s.memInstalled, mem := s.mem
      wzSeq := s.wzSeq } := by
  simp [State.hostReset, h]

/-- Reset of a torn-down handle does nothing. -/
theorem hostReset_tornDown {s : State} (h : s.handle = .tornDown) (g : Config.ResetGpr) :
    s.hostReset g = s := by
  simp [State.hostReset, h]

/-- The EI delay plays no part in a fetch. -/
theorem afterFetch_delayOver (s : State) :
    { s with eiDelay := false }.afterFetch = { s.afterFetch with eiDelay := false } := by
  rw [State.afterFetch, State.afterFetch, advance_eq, advance_eq,
    advanceR_rReg_congr (s := { s with eiDelay := false }) (t := s) rfl]
  rfl

/-- A ready machine runs the instruction at PC, the EI delay over. -/
theorem step_ready {s : State} (h : s.Ready) :
    step s = exec s.fetched { s.afterFetch with eiDelay := false } := by
  rw [step_running h.running, iteration_runs h.noAccept h.notHalted, afterFetch_delayOver]

/-- PC is past the fetched instruction when its operation runs. -/
theorem afterFetch_pc (s : State) :
    s.afterFetch.pc = s.pc + BitVec.ofNat 16 s.fetched.length := by
  rw [State.afterFetch, advance_eq]

/-- The accesses made when an instruction's operation runs are those of its fetch. -/
theorem afterFetch_mem (s : State) : s.afterFetch.mem = s.mem.after s.fetchReads := by
  rw [State.afterFetch, advance_eq]

/-- A live handle with memory is ready to run once its registers hold the reset table. -/
theorem ready_of_resetValues {g : Config.ResetGpr} {s : State} (h : ResetValues g s)
    (hm : s.memInstalled = true) : s.Ready := by
  obtain ⟨-, -, hiff1, -, -, hhalted, -⟩ := h.system
  obtain ⟨-, -, hlock⟩ := h.line
  exact ⟨⟨h.handle, hm, by simp [State.hung, hhalted], hlock⟩, by simp [State.accepts, hiff1], hhalted⟩

/-- What the first iteration after reset fetches: the bytes from 0x0000 on, each read once and in order, with
the look-ahead after DD or FD. -/
theorem firstFetch {s : State} (hr : s.Ready) (hpc : s.pc = 0) :
    ∃ (i : Instr) (t : State), GoesOn s (s.readByte 0) [.read 0] 1 i ∧ step s = exec i t
      ∧ t.pc = BitVec.ofNat 16 i.length
      ∧ t.mem = s.mem.after (.read 0 :: furtherReads (s.readByte 0) 1 (i.length - 1)) := by
  refine ⟨s.fetched, _, ?_, step_ready hr, ?_, ?_⟩
  · simpa [Fetches, hpc] using (fetches_iff s s.fetched).mpr rfl
  · simp [afterFetch_pc, hpc]
  · simp only [afterFetch_mem, fetchReads_eq, hpc]
    rfl

/-- Settles O1: the table for both, then the first fetch of the machine that reset leaves. -/
theorem resetTableAndFirstFetch : Obligations.ResetTableAndFirstFetch := by
  intro g
  refine ⟨⟨resetValues_wired g (State.init g), rfl, fun _ => rfl⟩,
    fun s => ⟨fun hl => ?_, fun ht => ?_⟩⟩
  · rw [hostReset_live hl]
    have hv := resetValues_wired g s
    refine ⟨hv, rfl, rfl, rfl, rfl, fun hm => ⟨ready_of_resetValues hv hm, ?_⟩⟩
    exact firstFetch (ready_of_resetValues hv hm) rfl
  · exact hostReset_tornDown ht g

end Sys2Proof.Machine
end

section
/-! PROOFS. 20_memory.md R78, 00_scope.md R22: an instruction's operation makes single accesses on the
provider, and writes to the addresses that its rule names alone. -/

namespace Sys2Proof.Machine

/-! ### Accesses that write to listed addresses alone -/

/-- From one provider to another by accesses, each write of them to an address in `ws`. -/
def StoresOnly (ws : List Word) (m n : Provider) : Prop :=
  ∃ xs : List Config.MemAccess, n = m.after xs ∧ ∀ (a : Word) (v : Byte), .write a v ∈ xs → a ∈ ws

/-- A provider with no access made on it. -/
theorem storesOnly_of_eq {ws : List Word} {m n : Provider} (h : n = m) : StoresOnly ws m n :=
  ⟨[], h, by simp⟩

/-- Whichever way a condition goes. -/
theorem storesOnly_ite {ws : List Word} {m : Provider} {t u : State} (c : Prop) [Decidable c]
    (ht : StoresOnly ws m t.mem) (hu : StoresOnly ws m u.mem) :
    StoresOnly ws m (if c then t else u).mem := by
  split
  · exact ht
  · exact hu

/-- A byte that no access writes is the old one. -/
theorem lastByte_of_not_written {xs : List Config.MemAccess} {a : Word}
    (h : ∀ v : Byte, .write a v ∉ xs) (old : Byte) : lastByte xs a old = old := by
  induction xs generalizing old with
  | nil => rfl
  | cons x xs ih =>
    have hxs : ∀ v : Byte, .write a v ∉ xs := fun v hv => h v (List.mem_cons_of_mem x hv)
    cases x with
    | read b => exact ih hxs old
    | write b v =>
      have hba : b ≠ a := fun hba => h v (by simp [hba])
      rw [lastByte, if_neg hba, ih hxs]

/-- On the reference provider such accesses leave every other byte alone. -/
theorem StoresOnly.keepsMemoryBut {ws : List Word} {s t : State} (h : StoresOnly ws s.mem t.mem)
    (hr : s.mem.isReference = true) : KeepsMemoryBut ws s t := by
  obtain ⟨xs, hmem, hxs⟩ := h
  intro a ha
  rw [(accessed_of hmem).2 hr, lastByte_of_not_written fun v hv => ha (hxs a v hv)]

/-! ### The operations the instructions share -/

section StoresOfUpdates

variable (s : State) {ws : List Word}

theorem storesOnly_afterLoad (p : Place) : StoresOnly ws s.mem (s.afterLoad p).mem := by
  cases p with
  | reg r => exact storesOnly_of_eq rfl
  | atHL | atIdx => exact ⟨[.read _], rfl, by simp⟩

theorem storesOnly_writeByte {a : Word} (v : Byte) (ha : a ∈ ws) :
    StoresOnly ws s.mem (s.writeByte a v).mem :=
  ⟨_, writeByte_mem s a v, by simp [ha]⟩

/-- A place in memory read and then written. -/
theorem storesOnly_rewrite (p : Place) (v : Byte) (hp : ∀ a ∈ p.address s, a ∈ ws) :
    StoresOnly ws s.mem ((s.afterLoad p).store p v).mem := by
  cases p with
  | reg r => exact storesOnly_of_eq (by simp [rewrite_mem])
  | atHL => exact ⟨_, rewrite_mem s .atHL v, by simp [hp s.hl rfl]⟩
  | atIdx x d =>
    have hmem := hp (s.ea x d) rfl
    rw [ea_displaced] at hmem
    exact ⟨_, rewrite_mem s (.atIdx x d) v, by simp [hmem]⟩

theorem storesOnly_writeWord (a w : Word) : StoresOnly [a, a + 1] s.mem (s.writeWord a w).mem :=
  ⟨_, writeWord_mem s a w, by simp +contextual [or_imp]⟩

theorem storesOnly_push (w : Word) : StoresOnly [s.sp - 1, s.sp - 2] s.mem (s.push w).mem :=
  ⟨_, push_mem s w, by simp +contextual [or_imp]⟩

theorem storesOnly_popPC : StoresOnly ws s.mem s.popPC.mem :=
  ⟨_, popPC_mem s, by simp⟩

theorem storesOnly_replaceTop (w : Word) :
    StoresOnly [s.sp, s.sp + 1] s.mem (s.replaceTop w).mem :=
  ⟨_, replaceTop_mem s w, by simp +contextual [or_imp]⟩

end StoresOfUpdates

/-! ### The instructions -/

/-- The provider after a choice of two states. -/
@[simp] theorem mem_ite (c : Prop) [Decidable c] (t u : State) :
    (if c then t else u).mem = if c then t.mem else u.mem := apply_ite ..

/-- WHAT AN INSTRUCTION DOES TO MEMORY: its operation makes accesses that write where the rule says. -/
theorem exec_storesOnly {i : Instr} {s t : State} (h : exec i s = .next t) :
    StoresOnly (storedTo s i) s.mem t.mem := by
  cases i with
  | ldHlR | ldHlN | ldIxDR | ldIxDN | ldIyDR | ldIyDN | ldBcA | ldDeA | ldNnA =>
    cases h
    exact storesOnly_writeByte s _ (by simp [storedTo])
  | ldMemHl | ldMemDd | ldMemIx | ldMemIy => cases h; exact storesOnly_writeWord s _ _
  | incR | incHl | incIxD | incIyD | decR | decHl | decIxD | decIyD
  | rlcR | rlcHl | rlcIxD | rlcIyD | rlR | rlHl | rlIxD | rlIyD | rrcR | rrcHl | rrcIxD | rrcIyD
  | rrR | rrHl | rrIxD | rrIyD | slaR | slaHl | slaIxD | slaIyD | sraR | sraHl | sraIxD | sraIyD
  | srlR | srlHl | srlIxD | srlIyD | setR | setHl | setIxD | setIyD | resR | resHl | resIxD
  | resIyD =>
    cases h
    exact storesOnly_rewrite s _ _ (by simp [Place.address, storedTo])
  | rld | rrd => cases h; exact ⟨_, rotateDigits_mem s _, by simp [storedTo]⟩
  | pushQq | pushIx | pushIy | callNn | rst => cases h; exact storesOnly_push s _
  | callCcNn =>
    cases h
    exact storesOnly_ite _ (storesOnly_push s _) (storesOnly_of_eq rfl)
  | exSpHl | exSpIx | exSpIy => cases h; exact storesOnly_replaceTop s _
  | ldi | ldd => cases h; exact ⟨_, blockCopy_mem s _, by simp [storedTo]⟩
  | ldir | lddr =>
    cases h
    exact ⟨_, (repeatIf_mem ..).trans (blockCopy_mem s _), by simp [storedTo]⟩
  | ini | ind => cases h; exact ⟨_, blockIn_mem s _, by simp [storedTo]⟩
  | inir | indr =>
    cases h
    exact ⟨_, (repeatIf_mem ..).trans (blockIn_mem s _), by simp [storedTo]⟩
  | cpi | cpd => cases h; exact ⟨_, blockCompare_mem s _, by simp⟩
  | cpir | cpdr => cases h; exact ⟨_, (repeatIf_mem ..).trans (blockCompare_mem s _), by simp⟩
  | outi | outd => cases h; exact ⟨_, blockOut_mem s _, by simp⟩
  | otir | otdr => cases h; exact ⟨_, (repeatIf_mem ..).trans (blockOut_mem s _), by simp⟩
  | addHl | addIxD | addIyD | adcHl | adcIxD | adcIyD | subHl | subIxD | subIyD | sbcHl | sbcIxD
  | sbcIyD | andHl | andIxD | andIyD | orHl | orIxD | orIyD | xorHl | xorIxD | xorIyD | cpHl
  | cpIxD | cpIyD | bitR | bitHl | bitIxD | bitIyD => cases h; exact storesOnly_afterLoad s _
  | ldRHl | ldRIxD | ldRIyD | ldABc | ldADe | ldANn =>
    cases h
    exact ⟨[.read _], setR8_mem .., by simp⟩
  | ldHlMem | ldIxMem | ldIyMem => cases h; exact ⟨_, afterReadWord_mem s _, by simp⟩
  | ldDdMem => cases h; exact ⟨[.read _, .read _], setDd_mem .., by simp⟩
  | popQq => cases h; exact ⟨[.read _, .read _], setQq_mem .., by simp⟩
  | popIx | popIy => cases h; exact ⟨_, dropTop_mem s, by simp⟩
  | ret | reti | retn => cases h; exact storesOnly_popPC s
  | retCc => cases h; exact storesOnly_ite _ (storesOnly_popPC s) (storesOnly_of_eq rfl)
  | _ => cases h; exact storesOnly_of_eq (by simp)

/-- Settles O29: the accesses of the operation, and what they leave alone on the reference provider. -/
theorem memoryFrame : Obligations.MemoryFrame := fun _ _ _ h =>
  ⟨(exec_storesOnly h).keepsMemoryBut, exec_storesOnly h⟩

end Sys2Proof.Machine
end

section
/-! PROOFS. 20_memory.md R71 to R77: the accesses of the Memory port, and what each kind of provider does
with one. -/

namespace Sys2Proof.Machine

/-! ### One access of a provider behind a map of regions -/

section RegionAccess

variable {s : State} {rs : List Region} {cells : Memory} {r : Region} {a : Word} {base : Nat}

/-- A state is itself with the provider it has. -/
theorem withMem_self {m : Provider} (h : m = s.mem) : { s with mem := m } = s := by
  subst h; rfl

/-- The cell behind an address of a region of cells. -/
def Region.cellAt (r : Region) (base a : Nat) : Nat := (base + (a - r.first)) % 65536

theorem resolve_cells {w : Bool} (hd : Decides rs r a.toNat) (hb : r.backing = .cells base w) :
    resolve rs a.toNat = .cells (r.cellAt base a.toNat) w := by
  rw [resolve_decides hd, hb]; rfl

theorem resolve_absent {u : Byte} (hd : Decides rs r a.toNat) (hb : r.backing = .absent u) :
    resolve rs a.toNat = .absent u := by
  rw [resolve_decides hd, hb]

/-- Reading is one access that a map of regions does not notice. -/
theorem afterRead_backed (hm : s.mem = .backed rs cells) (a : Word) : s.afterRead a = s :=
  withMem_self (by rw [hm, Provider.access_read_backed])

/-- A read in a region of cells answers the cell behind the address. -/
theorem readByte_cells {w : Bool} (hm : s.mem = .backed rs cells) (hd : Decides rs r a.toNat)
    (hb : r.backing = .cells base w) :
    s.readByte a = Memory.read cells (r.cellAt base a.toNat) := by
  simp [State.readByte, Provider.read, hm, resolve_cells hd hb]

/-- A read in an absent region answers the region's byte. -/
theorem readByte_absent {u : Byte} (hm : s.mem = .backed rs cells) (hd : Decides rs r a.toNat)
    (hb : r.backing = .absent u) : s.readByte a = u := by
  simp [State.readByte, Provider.read, hm, resolve_absent hd hb]

/-- A read-only region keeps nothing that is written. -/
theorem writeByte_readOnly (hm : s.mem = .backed rs cells) (hd : Decides rs r a.toNat)
    (hb : r.backing = .cells base false) (v : Byte) : s.writeByte a v = s :=
  withMem_self (by simp [Provider.access, hm, resolve_cells hd hb])

/-- An absent region keeps nothing that is written. -/
theorem writeByte_absent {u : Byte} (hm : s.mem = .backed rs cells) (hd : Decides rs r a.toNat)
    (hb : r.backing = .absent u) (v : Byte) : s.writeByte a v = s :=
  withMem_self (by simp [Provider.access, hm, resolve_absent hd hb])

/-- A write in a writable region goes to the cell behind the address. -/
theorem writeByte_writable (hm : s.mem = .backed rs cells) (hd : Decides rs r a.toNat)
    (hb : r.backing = .cells base true) (v : Byte) :
    (s.writeByte a v).mem = .backed rs (Memory.write cells (r.cellAt base a.toNat) v) := by
  simp [Provider.access, hm, resolve_cells hd hb]

/-- A writable region answers what was written. -/
theorem readByte_writeByte_writable (hm : s.mem = .backed rs cells) (hd : Decides rs r a.toNat)
    (hb : r.backing = .cells base true) (v : Byte) : (s.writeByte a v).readByte a = v := by
  rw [readByte_cells (writeByte_writable hm hd hb v) hd hb, Memory.read_write, if_pos rfl]

end RegionAccess

/-- Settles O60: byte and word accesses by definition, the reference provider as flat RAM, and a map of
regions by the region that decides for the address. -/
theorem memoryPortAccesses : Obligations.MemoryPortAccesses := by
  intro s a b w v
  refine ⟨⟨rfl, rfl, rfl⟩, ⟨wordAt_readWord s a, rfl, rfl⟩, fun hr => ?reference,
    fun rs cells r q hm hd => ⟨afterRead_backed hm a, fun base hb => ?readOnly, fun u hb => ?absent,
      fun base hb => ?writable, fun base base' w' w'' hq hb hb' hcell => ?mirror⟩⟩
  case reference =>
    obtain ⟨cells, hm⟩ := s.mem.isReference_iff.mp hr
    exact ⟨afterRead_backed hm a, Provider.isReference_access hr _, readByte_writeByte hr a b v⟩
  case readOnly => exact writeByte_readOnly hm hd hb v
  case absent => exact ⟨readByte_absent hm hd hb, writeByte_absent hm hd hb v⟩
  case writable => exact readByte_writeByte_writable hm hd hb v
  case mirror =>
    rw [readByte_cells hm hd hb, readByte_cells hm hq hb']
    exact congrArg (Memory.read cells) hcell

end Sys2Proof.Machine
end

section
/-! PROOFS. The decoder and the encoder (30_encoding.md R100 to R120). `TableEntry` is what every entry of the
opcode tables has to meet; the tables are walked by the fields of the opcode byte, as R109 and R114 lay them
out, and the operand bytes stay variables. -/

namespace Sys2Proof

/-! ### Fields of an opcode byte -/

/-- A byte is made of its three fields. -/
theorem byte233_fields (op : Byte) : byte233 (fieldX op) (fieldY op) (fieldZ op) = op := by
  revert op; decide

/-- The field `op[7:6]` of a byte made of three fields. -/
theorem fieldX_byte233 (x : BitVec 2) (y z : BitVec 3) : fieldX (byte233 x y z) = x := by
  revert x y z; decide

/-- What holds of every byte made of three fields holds of every byte. -/
theorem byte_cases {motive : Byte → Prop} (fields : ∀ x y z, motive (byte233 x y z)) (op : Byte) :
    motive op :=
  byte233_fields op ▸ fields _ _ _

/-- The four values of a 2-bit field. -/
theorem code2_cases {motive : BitVec 2 → Prop} (code0 : motive 0) (code1 : motive 1)
    (code2 : motive 2) (code3 : motive 3) (k : BitVec 2) : motive k := by
  have h : k = 0 ∨ k = 1 ∨ k = 2 ∨ k = 3 := by revert k; decide
  obtain rfl | rfl | rfl | rfl := h <;> assumption

/-- The eight values of a 3-bit field. -/
theorem code3_cases {motive : BitVec 3 → Prop} (code0 : motive 0) (code1 : motive 1)
    (code2 : motive 2) (code3 : motive 3) (code4 : motive 4) (code5 : motive 5) (code6 : motive 6)
    (code7 : motive 7) (k : BitVec 3) : motive k := by
  have h : k = 0 ∨ k = 1 ∨ k = 2 ∨ k = 3 ∨ k = 4 ∨ k = 5 ∨ k = 6 ∨ k = 7 := by revert k; decide
  obtain rfl | rfl | rfl | rfl | rfl | rfl | rfl | rfl := h <;> assumption

/-! ### What an entry of the tables meets -/

/-- The table of R120: the length from the first byte, or from the first two. -/
def leadingLength (b0 b1 : Byte) : Nat :=
  if b0 = 0xCB then 2
  else if b0 = 0xED then
    if b1 ∈ [0x43, 0x4B, 0x53, 0x5B, 0x63, 0x6B, 0x73, 0x7B] then 4 else 2
  else if b0 = 0xDD ∨ b0 = 0xFD then
    if b1 = 0xCB then 4
    else if b1 ∈ [0x09, 0x19, 0x29, 0x39, 0x23, 0x2B, 0xE1, 0xE3, 0xE5, 0xE9, 0xF9] then 2
    else if b1 ∈ [0x21, 0x22, 0x2A, 0x36] then 4
    else if b1 ∈ xyDocumented then 3
    else 1
  else if b0 ∈ [0x06, 0x0E, 0x16, 0x1E, 0x26, 0x2E, 0x36, 0x3E, 0x10, 0x18, 0x20, 0x28, 0x30,
      0x38, 0xC6, 0xCE, 0xD6, 0xDE, 0xE6, 0xEE, 0xF6, 0xFE, 0xD3, 0xDB] then 2
  else if b0 ∈ [0x01, 0x11, 0x21, 0x31, 0x22, 0x2A, 0x32, 0x3A, 0xC3, 0xCD, 0xC2, 0xCA, 0xD2,
      0xDA, 0xE2, 0xEA, 0xF2, 0xFA, 0xC4, 0xCC, 0xD4, 0xDC, 0xE4, 0xEC, 0xF4, 0xFC] then 3
  else 1

/-- An instruction that four bytes may select: well formed, encoded by the bytes it takes of them, and as
long as R120 says. -/
structure TableEntry (i : Instr) (b0 b1 b2 b3 : Byte) : Prop where
  wellFormed : i.wellFormed = true
  bytes : encode i = [b0, b1, b2, b3].take i.length
  length : i.length = leadingLength b0 b1

/-- A word operand in the second and third byte, low byte first. -/
theorem TableEntry.ofWord {b0 b3 lo hi : Byte} {f : Word → Instr}
    (h : ∀ nn : Word, TableEntry (f nn) b0 (loByte nn) (hiByte nn) b3) :
    TableEntry (f (wordOf lo hi)) b0 lo hi b3 := by
  simpa using h (wordOf lo hi)

/-- A word operand in the last two bytes, low byte first. -/
theorem TableEntry.ofTailWord {b0 b1 lo hi : Byte} {f : Word → Instr}
    (h : ∀ nn : Word, TableEntry (f nn) b0 b1 (loByte nn) (hiByte nn)) :
    TableEntry (f (wordOf lo hi)) b0 b1 lo hi := by
  simpa using h (wordOf lo hi)

/-! ### The tables, entry by entry -/

/-- The byte, DD or FD, that stands before the opcodes of an index register. -/
def Idx.prefixByte : Idx → Byte
  | .ix => 0xDD
  | .iy => 0xFD

section Tables

variable (b1 b2 b3 : Byte)

/-- The CB table (R113, R117). -/
theorem decodeCb_entry : TableEntry (decodeCb b1) 0xCB b1 b2 b3 := by
  induction b1 using byte_cases with | fields x y z =>
  cases x using code2_cases <;> cases y using code3_cases <;> cases z using code3_cases <;>
    exact ⟨rfl, rfl, rfl⟩

/-- The ED table (R110, R116): the words are in the column `op[2:0] = 3` of the quarter `op[7:6] = 1`. -/
theorem decodeEd_entry : TableEntry (decodeEd b1 b2 b3) 0xED b1 b2 b3 := by
  induction b1 using byte_cases with | fields x y z =>
  cases x using code2_cases
  case code1 =>
    cases z using code3_cases
    case code3 =>
      cases y using code3_cases
      case code0 | code2 | code4 | code6 =>
        exact .ofTailWord (f := .ldMemDd _) fun _ => ⟨rfl, rfl, rfl⟩
      all_goals exact .ofTailWord (f := .ldDdMem _) fun _ => ⟨rfl, rfl, rfl⟩
    all_goals cases y using code3_cases <;> exact ⟨rfl, rfl, rfl⟩
  all_goals cases y using code3_cases <;> cases z using code3_cases <;> exact ⟨rfl, rfl, rfl⟩

/-- The indexed-bit table (R112, R119). -/
theorem decodeXyCb_entry (x : Idx) : TableEntry (decodeXyCb x b2 b3) x.prefixByte 0xCB b2 b3 := by
  induction b3 using byte_cases with | fields p y z =>
  cases x <;> cases p using code2_cases <;> cases y using code3_cases <;>
    cases z using code3_cases <;> exact ⟨rfl, rfl, rfl⟩

/-- The indexed table (R111, R118): the words are in the quarter `op[7:6] = 0`, and 0xCB goes on to the
indexed-bit table. -/
theorem decodeXy_entry (x : Idx) : TableEntry (decodeXy x b1 b2 b3) x.prefixByte b1 b2 b3 := by
  induction b1 using byte_cases with | fields p y z =>
  cases p using code2_cases
  case code0 =>
    cases z using code3_cases
    case code1 =>
      cases y using code3_cases
      case code4 =>
        cases x
        · exact .ofTailWord (f := .ldIxNn) fun _ => ⟨rfl, rfl, rfl⟩
        · exact .ofTailWord (f := .ldIyNn) fun _ => ⟨rfl, rfl, rfl⟩
      all_goals cases x <;> exact ⟨rfl, rfl, rfl⟩
    case code2 =>
      cases y using code3_cases
      case code4 =>
        cases x
        · exact .ofTailWord (f := .ldMemIx) fun _ => ⟨rfl, rfl, rfl⟩
        · exact .ofTailWord (f := .ldMemIy) fun _ => ⟨rfl, rfl, rfl⟩
      case code5 =>
        cases x
        · exact .ofTailWord (f := .ldIxMem) fun _ => ⟨rfl, rfl, rfl⟩
        · exact .ofTailWord (f := .ldIyMem) fun _ => ⟨rfl, rfl, rfl⟩
      all_goals cases x <;> exact ⟨rfl, rfl, rfl⟩
    all_goals cases x <;> cases y using code3_cases <;> exact ⟨rfl, rfl, rfl⟩
  case code3 =>
    cases y using code3_cases
    case code1 =>
      cases z using code3_cases
      case code3 => exact decodeXyCb_entry b2 b3 x
      all_goals cases x <;> exact ⟨rfl, rfl, rfl⟩
    all_goals cases x <;> cases z using code3_cases <;> exact ⟨rfl, rfl, rfl⟩
  all_goals cases x <;> cases y using code3_cases <;> cases z using code3_cases <;>
    exact ⟨rfl, rfl, rfl⟩

/-- The quarter `op[7:6] = 0` of the unprefixed table (R114). -/
theorem decode0_entry (y z : BitVec 3) :
    TableEntry (decode0 (byte233 0 y z) b1 b2) (byte233 0 y z) b1 b2 b3 := by
  cases z using code3_cases
  case code1 =>
    cases y using code3_cases
    case code0 | code2 | code4 | code6 => exact .ofWord (f := .ldDdNn _) fun _ => ⟨rfl, rfl, rfl⟩
    all_goals exact ⟨rfl, rfl, rfl⟩
  case code2 =>
    cases y using code3_cases
    case code4 => exact .ofWord (f := .ldMemHl) fun _ => ⟨rfl, rfl, rfl⟩
    case code5 => exact .ofWord (f := .ldHlMem) fun _ => ⟨rfl, rfl, rfl⟩
    case code6 => exact .ofWord (f := .ldNnA) fun _ => ⟨rfl, rfl, rfl⟩
    case code7 => exact .ofWord (f := .ldANn) fun _ => ⟨rfl, rfl, rfl⟩
    all_goals exact ⟨rfl, rfl, rfl⟩
  all_goals cases y using code3_cases <;> exact ⟨rfl, rfl, rfl⟩

/-- The quarter `op[7:6] = 1`: no operand bytes. -/
theorem decode1_entry (y z : BitVec 3) :
    TableEntry (decode1 (byte233 1 y z)) (byte233 1 y z) b1 b2 b3 := by
  cases y using code3_cases <;> cases z using code3_cases <;> exact ⟨rfl, rfl, rfl⟩

/-- The quarter `op[7:6] = 2`: no operand bytes. -/
theorem decode2_entry (y z : BitVec 3) :
    TableEntry (decode2 (byte233 2 y z)) (byte233 2 y z) b1 b2 b3 := by
  cases y using code3_cases <;> cases z using code3_cases <;> exact ⟨rfl, rfl, rfl⟩

/-- The quarter `op[7:6] = 3`, with the four prefixed tables. -/
theorem decode3_entry (y z : BitVec 3) :
    TableEntry (decode3 (byte233 3 y z) b1 b2 b3) (byte233 3 y z) b1 b2 b3 := by
  cases z using code3_cases
  case code2 =>
    cases y using code3_cases <;> exact .ofWord (f := .jpCcNn _) fun _ => ⟨rfl, rfl, rfl⟩
  case code3 =>
    cases y using code3_cases
    case code0 => exact .ofWord (f := .jpNn) fun _ => ⟨rfl, rfl, rfl⟩
    case code1 => exact decodeCb_entry b1 b2 b3
    all_goals exact ⟨rfl, rfl, rfl⟩
  case code4 =>
    cases y using code3_cases <;> exact .ofWord (f := .callCcNn _) fun _ => ⟨rfl, rfl, rfl⟩
  case code5 =>
    cases y using code3_cases
    case code1 => exact .ofWord (f := .callNn) fun _ => ⟨rfl, rfl, rfl⟩
    case code3 => exact decodeXy_entry b1 b2 b3 .ix
    case code5 => exact decodeEd_entry b1 b2 b3
    case code7 => exact decodeXy_entry b1 b2 b3 .iy
    all_goals exact ⟨rfl, rfl, rfl⟩
  all_goals cases y using code3_cases <;> exact ⟨rfl, rfl, rfl⟩

/-- Any four bytes select an instruction that they may select: the four quarters of the unprefixed table. -/
theorem decode4_entry (b0 : Byte) : TableEntry (decode4 b0 b1 b2 b3) b0 b1 b2 b3 := by
  induction b0 using byte_cases with | fields x y z =>
  cases x using code2_cases
  all_goals rw [decode4, fieldX_byte233]
  case code0 => exact decode0_entry b1 b2 b3 y z
  case code1 => exact decode1_entry b1 b2 b3 y z
  case code2 => exact decode2_entry b1 b2 b3 y z
  case code3 => exact decode3_entry b1 b2 b3 y z

end Tables

/-! ### The fallbacks -/

/-- A table's entries outside a set are its fallback `g`, from one equation per entry: those in the set are
put out of play by taking the fallback for them. -/
theorem fallback_of_entries {S : List Byte} {f g : Byte → Instr}
    (entries : ∀ x y z, (if byte233 x y z ∈ S then g (byte233 x y z) else f (byte233 x y z)) =
      g (byte233 x y z)) {op : Byte} (h : op ∉ S) : f op = g op := by
  induction op using byte_cases with | fields x y z =>
  simpa only [if_neg h] using entries x y z

/-- R116: the ED encodings outside the documented set. -/
theorem decodeEd_undocumented {op : Byte} (h : op ∉ edDocumented) (b2 b3 : Byte) :
    decodeEd op b2 b3 = .nopEd op := by
  refine fallback_of_entries (f := (decodeEd · b2 b3)) (fun x y z => ?_) h
  cases x using code2_cases <;> cases y using code3_cases <;> cases z using code3_cases <;> rfl

/-- R117: the CB encodings of the undefined shift. -/
theorem decodeCb_undefined (k : BitVec 3) : decodeCb (byte233 0b00 0b110 k) = .nopCb k := by
  revert k; decide

/-- R118: DD or FD before a byte that completes no indexed instruction. -/
theorem decodeXy_lone {op : Byte} (hcb : op ≠ 0xCB) (hop : op ∉ xyDocumented) (x : Idx)
    (b2 b3 : Byte) : decodeXy x op b2 b3 = forIdx x .nopDd .nopFd := by
  refine fallback_of_entries (S := 0xCB :: xyDocumented) (f := (decodeXy x · b2 b3))
    (g := fun _ => forIdx x .nopDd .nopFd) (fun p y z => ?_)
    (List.not_mem_cons_of_ne_of_not_mem hcb hop)
  cases p using code2_cases <;> cases y using code3_cases <;> cases z using code3_cases <;> rfl

/-- R119: the indexed-bit encodings outside the documented set. -/
theorem decodeXyCb_undocumented {op : Byte} (h : op ∉ xyCbDocumented) (x : Idx) (d : Byte) :
    decodeXyCb x d op = forIdx x (.nopDdCb d op) (.nopFdCb d op) := by
  refine fallback_of_entries (f := decodeXyCb x d)
    (g := fun b => forIdx x (.nopDdCb d b) (.nopFdCb d b)) (fun p y z => ?_) h
  cases p using code2_cases <;> cases y using code3_cases <;> cases z using code3_cases <;> rfl

/-! ### Decoding an encoding -/

/-- The instruction a stream of bytes begins with; a stream that ends inside it goes on with zeros. -/
def decodeStream (bs : List Byte) : Instr :=
  decode4 (bs.getD 0 0) (bs.getD 1 0) (bs.getD 2 0) (bs.getD 3 0)

/-- The form over byte lists is the stream's first instruction and the bytes after it. -/
theorem decode_eq (bs : List Byte) :
    decode bs = if bs.length < (decodeStream bs).lookAhead then .error .truncated
      else .ok (decodeStream bs, bs.drop (decodeStream bs).length) := rfl

/-- What has to follow an instruction: after a lone DD or FD, a byte that completes no indexed
instruction (R118). -/
def MayFollow (i : Instr) (rest : List Byte) : Prop :=
  i.format = .xyLone → ∃ b tail, rest = b :: tail ∧ b ≠ 0xCB ∧ b ∉ xyDocumented

/-- The encoder writes as many bytes as the instruction is long (R120). -/
theorem encode_length (i : Instr) : (encode i).length = i.length := by
  cases i <;> rfl

/-- A stream that begins with an instruction's encoding decodes to that instruction. The fields of the opcode
byte are the codes of the operands, so the cases are grouped by the operands; a word is joined again from its
bytes. -/
theorem decodeStream_encode_append {i : Instr} {rest : List Byte} (hi : i.wellFormed = true)
    (hrest : MayFollow i rest) : decodeStream (encode i ++ rest) = i := by
  cases i
  all_goals simp only [encode, decodeStream, List.cons_append, List.nil_append, List.getD_cons_zero,
    List.getD_cons_succ]
  case ldRR r s => cases r <;> cases s <;> rfl
  case ldRN r _ | ldRHl r | ldRIxD r _ | ldRIyD r _ | ldHlR r | ldIxDR r _ | ldIyDR r _ | addR r
      | adcR r | subR r | sbcR r | andR r | orR r | xorR r | cpR r | incR r | decR r | rlcR r | rlR r
      | rrcR r | rrR r | slaR r | sraR r | srlR r | inRC r | outCR r => cases r <;> rfl
  case pushQq k | popQq k | addHlSs k | adcHlSs k | sbcHlSs k | addIxPp k | addIyRr k | incSs k
      | decSs k => cases k <;> rfl
  case retCc cc => cases cc <;> rfl
  case bitR b r | setR b r | resR b r => cases b using code3_cases <;> cases r <;> rfl
  case bitHl b | setHl b | resHl b | bitIxD b _ | bitIyD b _ | setIxD b _ | setIyD b _ | resIxD b _
      | resIyD b _ | rst b | nopCb b => cases b using code3_cases <;> rfl
  case ldANn nn | ldNnA nn | ldIxNn nn | ldIyNn nn | ldHlMem nn | ldIxMem nn | ldIyMem nn
      | ldMemHl nn | ldMemIx nn | ldMemIy nn | jpNn nn | callNn nn =>
    conv_rhs => rw [← wordOf_lo_hi nn]
    rfl
  case ldDdNn k nn | ldDdMem k nn | ldMemDd k nn | jpCcNn k nn | callCcNn k nn =>
    conv_rhs => rw [← wordOf_lo_hi nn]
    cases k <;> rfl
  case nopEd op =>
    exact decodeEd_undocumented (by simpa [Instr.wellFormed] using hi) _ _
  case nopDdCb d op =>
    exact decodeXyCb_undocumented (by simpa [Instr.wellFormed] using hi) .ix _
  case nopFdCb d op =>
    exact decodeXyCb_undocumented (by simpa [Instr.wellFormed] using hi) .iy _
  case nopDd =>
    obtain ⟨b, tail, rfl, hcb, hb⟩ := hrest rfl
    exact decodeXy_lone hcb hb .ix _ _
  case nopFd =>
    obtain ⟨b, tail, rfl, hcb, hb⟩ := hrest rfl
    exact decodeXy_lone hcb hb .iy _ _
  all_goals rfl

/-- The bytes the decoder looks at: an instruction's own, or a lone DD or FD and the byte after it. -/
theorem lookAhead_eq (i : Instr) : i.lookAhead = if i.format = .xyLone then 2 else i.length := by
  unfold Instr.lookAhead Instr.length
  cases i.format <;> rfl

/-- The bytes the decoder looks at are there. -/
theorem lookAhead_le {i : Instr} {rest : List Byte} (hrest : MayFollow i rest) :
    i.lookAhead ≤ (encode i ++ rest).length := by
  rw [List.length_append, encode_length]
  by_cases hf : i.format = .xyLone
  · obtain ⟨b, tail, rfl, -⟩ := hrest hf
    rw [lookAhead_eq, if_pos hf, Instr.length, hf, Format.length, List.length_cons]
    omega
  · rw [lookAhead_eq, if_neg hf]
    omega

/-- Settles O6: the stream decodes to the instruction, holds the bytes looked at, and goes on behind the
encoding. -/
theorem decodeUndoesEncode : Obligations.DecodeUndoesEncode := by
  intro i rest hi hrest
  rw [decode_eq, decodeStream_encode_append hi hrest, if_neg (lookAhead_le hrest).not_gt,
    List.drop_left' (encode_length i)]

end Sys2Proof
end

section
/-! PROOFS. The statements on decoding any four bytes, from the tables and from decoding an encoding
(30_encoding.md R102, R115 to R120). -/

namespace Sys2Proof

/-! ### The bytes an instruction was decoded from -/

/-- Every instruction takes at least one byte. -/
theorem length_pos (i : Instr) : 0 < i.length := by
  unfold Instr.length
  cases i.format <;> decide

/-- A lone DD or FD takes one byte (R118). -/
theorem length_lone {i : Instr} (h : i.format = .xyLone) : i.length = 1 := by
  rw [Instr.length, h, Format.length]

/-- An instruction of the lone format is encoded by DD or FD alone. -/
theorem encode_lone {i : Instr} (h : i.format = .xyLone) : ∃ x : Idx, encode i = [x.prefixByte] := by
  cases i
  case nopDd => exact ⟨.ix, rfl⟩
  case nopFd => exact ⟨.iy, rfl⟩
  all_goals nomatch h

/-- R120 gives DD or FD the length 1 only before a byte that completes no indexed instruction. -/
theorem undocumented_of_leadingLength (x : Idx) (b1 : Byte) (h : leadingLength x.prefixByte b1 = 1) :
    b1 ≠ 0xCB ∧ b1 ∉ xyDocumented := by
  revert b1
  cases x <;> decide

section Entries

variable {i : Instr} {b0 b1 b2 b3 : Byte}

/-- After a lone DD or FD of the tables comes a byte that completes no indexed instruction. -/
theorem TableEntry.undocumented (e : TableEntry i b0 b1 b2 b3) (h : i.format = .xyLone) :
    b1 ≠ 0xCB ∧ b1 ∉ xyDocumented := by
  obtain ⟨x, hx⟩ := encode_lone h
  have hb : x.prefixByte = b0 := by
    simpa [hx, length_lone h] using e.bytes
  exact undocumented_of_leadingLength x b1 (by rw [hb, ← e.length, length_lone h])

/-- Four bytes that begin with an instruction's encoding decode to it. -/
theorem decode4_of_bytes (hi : i.wellFormed = true) (hb : encode i = [b0, b1, b2, b3].take i.length)
    (hrest : MayFollow i ([b0, b1, b2, b3].drop i.length)) : decode4 b0 b1 b2 b3 = i := by
  have h := decodeStream_encode_append hi hrest
  rwa [hb, List.take_append_drop] at h

/-- An entry of the tables is what its first byte decodes to before any bytes that agree where it takes
them, and where a lone DD or FD looks ahead. -/
theorem TableEntry.decode4_eq (e : TableEntry i b0 b1 b2 b3) {c1 c2 c3 : Byte}
    (htake : [c1, c2, c3].take (i.length - 1) = [b1, b2, b3].take (i.length - 1))
    (hahead : i.format = .xyLone → c1 = b1) : decode4 b0 c1 c2 c3 = i := by
  obtain ⟨n, hn⟩ := Nat.exists_eq_add_one.mpr (length_pos i)
  refine decode4_of_bytes e.wellFormed ?bytes fun hlone => ?ahead
  case bytes =>
    rw [hn, Nat.add_sub_cancel] at htake
    rw [e.bytes, hn, List.take_succ_cons, List.take_succ_cons, htake]
  case ahead =>
    exact ⟨c1, [c2, c3], by rw [length_lone hlone]; rfl, hahead hlone ▸ e.undocumented hlone⟩

end Entries

/-- Settles O7: what four bytes decode to is an entry of the tables, and an entry is decoded from its own
bytes alone. -/
theorem decodedBytesAreTheEncoding : Obligations.DecodedBytesAreTheEncoding := by
  intro b0 b1 b2 b3
  have e := decode4_entry b1 b2 b3 b0
  refine ⟨e.wellFormed, e.bytes, fun c1 c2 c3 hc => e.decode4_eq ?bytes fun hlone => ?ahead⟩
  case bytes =>
    by_cases hlone : (decode4 b0 b1 b2 b3).format = .xyLone
    · rw [length_lone hlone]
      rfl
    · exact hc _ (if_neg hlone).symm
  case ahead => exact List.head_eq_of_cons_eq (hc 1 (if_pos hlone).symm)

/-- Settles O8: every entry of the tables has the length of R120. -/
theorem lengthFromLeadingBytes : Obligations.LengthFromLeadingBytes :=
  fun b0 b1 b2 b3 => (decode4_entry b1 b2 b3 b0).length

/-- Settles O5: each by running the decoder on the written bytes. -/
theorem writtenWordsDecode : Obligations.WrittenWordsDecode :=
  ⟨rfl, rfl, rfl, rfl, rfl, rfl, rfl, rfl, rfl, rfl, rfl, rfl⟩

/-! ### The fallbacks do nothing -/

namespace Machine

/-- The rule of an instruction whose operation leaves the state as it is. -/
theorem follows_of_exec_self {i : Instr} {bytes : List Byte} {m1 time : Nat} {s : State}
    (hb : encode i = bytes) (hm : i.m1 = m1) (ht : cost i s = time) (he : exec i s = .next s) :
    Follows i bytes m1 time s [] fun _ => True :=
  .intro hb hm ht he (Keeps.refl s []) trivial

/-- Settles O59: the bytes outside each documented set select the table's fallback, whose operation is
none. -/
theorem fallbacksDoNothing : Obligations.FallbacksDoNothing := by
  intro s b1 b2 b3 k
  refine ⟨fun h => ⟨decodeEd_undocumented h b2 b3, ?ed⟩, ⟨decodeCb_undefined k, ?cb⟩,
    fun hcb h => ⟨decodeXy_lone hcb h .ix b2 b3, decodeXy_lone hcb h .iy b2 b3, ?dd, ?fd⟩,
    fun h => ⟨decodeXyCb_undocumented h .ix b2, decodeXyCb_undocumented h .iy b2, ?ddCb, ?fdCb⟩⟩
  all_goals exact follows_of_exec_self rfl rfl rfl rfl

end Machine

end Sys2Proof
end

section
/-! PROOFS. 40_load8.md: what the 8-bit load group does, by rules for the single updates its operations are
made of: one register, one access of memory, the flags, I and R. -/

namespace Sys2Proof.Machine

/-! ### Frames of the updates -/

section Frames

variable {s t u : State} {l m : List Part}

/-- Agreement on a piece carries on. -/
theorem Part.same_trans {p : Part} (hst : p.same s t) (htu : p.same t u) : p.same s u := by
  cases p with
  | memory => exact ⟨htu.1.trans hst.1, fun a => (htu.2 a).trans (hst.2 a)⟩
  | wiring => simp_all [Part.same]
  | _ => exact Eq.trans htu hst

/-- Two updates in a row change what either of them changes. -/
theorem Keeps.trans (hst : Keeps l s t) (htu : Keeps m t u) : Keeps (l ++ m) s u := fun p hp =>
  Part.same_trans (hst p fun h => hp (List.mem_append_left m h))
    (htu p fun h => hp (List.mem_append_right l h))

variable (s)

theorem afterRead_keeps (a : Word) : Keeps [.memory] s (s.afterRead a) := by
  intro p hp
  cases p <;> simp_all [Part.same]

theorem writeByte_keeps (a : Word) (v : Byte) : Keeps [.memory] s (s.writeByte a v) := by
  intro p hp
  cases p <;> simp_all [Part.same]

theorem setFlags_keeps (g : Flags) : Keeps [.f] s (s.setFlags g) := by
  intro p hp
  cases p <;> simp_all [Part.same]

theorem setIReg_keeps (v : Byte) : Keeps [.iReg] s { s with iReg := v } := by
  intro p hp
  cases p <;> simp_all [Part.same, State.getR8, State.readByte]

theorem setRReg_keeps (v : Byte) : Keeps [.rReg] s { s with rReg := v } := by
  intro p hp
  cases p <;> simp_all [Part.same, State.getR8, State.readByte]

theorem loadSystem_keeps (v : Byte) : Keeps [.r8 .a, .f] s (s.loadSystem v) :=
  (setR8_keeps s .a v).trans (setFlags_keeps _ _)

/-- The flags that a byte of I or R brings to A. -/
theorem loadSystem_flags (v : Byte) :
    FlagsAre s { s := v.getLsbD 7, z := decide (v = 0), h := false, pv := s.iff2, n := false
                 c := s.flags.c } (s.loadSystem v) :=
  flagsAre_of (by simp) (by rw [beq_eq_decide])

end Frames

/-! ### The rule of each kind of load -/

section Rules

variable {i : Instr} {bytes : List Byte} {m1 time : Nat} {s : State}

/-- The rule of an instruction that loads a register with a byte it has. -/
theorem follows_of_exec_setR8 {r : R8} {v : Byte} (hb : encode i = bytes) (hm : i.m1 = m1)
    (ht : cost i s = time) (he : exec i s = .next (s.setR8 r v)) :
    Follows i bytes m1 time s [.r8 r] fun t => t.getR8 r = v :=
  .intro hb hm ht he (setR8_keeps s r v) (by simp)

/-- The rule of an instruction that loads a register from memory. -/
theorem accesses_of_exec_read {r : R8} {a : Word} (hb : encode i = bytes) (hm : i.m1 = m1)
    (ht : cost i s = time) (he : exec i s = .next ((s.afterRead a).setR8 r (s.readByte a))) :
    Accesses i bytes m1 time s [.r8 r] [.read a] fun t => t.getR8 r = s.readByte a :=
  .intro hb hm ht he ((afterRead_keeps s a).trans (setR8_keeps _ r _)) (setR8_mem ..) (by simp)

/-- The rule of an instruction that stores a byte. -/
theorem accesses_of_exec_write {a : Word} {v : Byte} (hb : encode i = bytes) (hm : i.m1 = m1)
    (ht : cost i s = time) (he : exec i s = .next (s.writeByte a v)) :
    Accesses i bytes m1 time s [] [.write a v] fun _ => True :=
  .intro hb hm ht he (writeByte_keeps s a v) (writeByte_mem ..) trivial

end Rules

/-- Settles O32: a register is set, from a byte at hand or from one read of memory. -/
theorem byteLoads : Obligations.ByteLoads := by
  intro s r q n d nn
  rw [← ea_ix, ← ea_iy]
  exact ⟨follows_of_exec_setR8 rfl rfl rfl rfl, follows_of_exec_setR8 rfl rfl rfl rfl,
    accesses_of_exec_read rfl rfl rfl rfl, accesses_of_exec_read rfl rfl rfl rfl,
    accesses_of_exec_read rfl rfl rfl rfl, accesses_of_exec_read rfl rfl rfl rfl,
    accesses_of_exec_read rfl rfl rfl rfl, accesses_of_exec_read rfl rfl rfl rfl⟩

/-- Settles O33: each is one write of memory. -/
theorem byteStores : Obligations.ByteStores := by
  intro s q n d nn
  rw [← ea_ix, ← ea_iy]
  refine ⟨?_, ?_, ?_, ?_, ?_, ?_, ?_, ?_, ?_⟩
  all_goals exact accesses_of_exec_write rfl rfl rfl rfl

/-! ### I and R across the fetch -/

/-- The main registers are those of before the fetch when an instruction's operation runs. -/
theorem afterFetch_main (s : State) : s.afterFetch.main = s.main := by
  rw [State.afterFetch, advance_eq]

/-- R has counted the opcode fetches when an instruction's operation runs. -/
theorem afterFetch_rReg (s : State) : s.afterFetch.rReg = (s.advanceR s.fetched.m1).rReg := by
  rw [State.afterFetch, advance_eq]

/-- Two increments of R count its low 7 bits up by 2. -/
theorem incR_incR_toNat (r : Byte) :
    (incR (incR r)).toNat = r.toNat / 128 * 128 + (r.toNat % 128 + 2) % 128 := by
  rw [incR_toNat, incR_toNat]
  omega

/-- Settles O34: the operations on any state, and for a step those on the state after the fetch. -/
theorem systemRegisterLoads : Obligations.SystemRegisterLoads := by
  intro s
  refine ⟨?aI, ?aR, ?iA, ?rA, fun hs hf => ?stepAR, fun hs hf => ?stepRA⟩
  case aI => exact .intro rfl rfl rfl rfl (loadSystem_keeps s _) ⟨rfl, loadSystem_flags s _⟩
  case aR => exact .intro rfl rfl rfl rfl (loadSystem_keeps s _) ⟨rfl, loadSystem_flags s _⟩
  case iA => exact .intro rfl rfl rfl rfl (setIReg_keeps s _) rfl
  case rA => exact .intro rfl rfl rfl rfl (setRReg_keeps s _) rfl
  case stepAR =>
    have hstep := step_ready hs
    have hr : s.afterFetch.rReg = incR (incR s.rReg) := by rw [afterFetch_rReg, hf]; rfl
    rw [hf] at hstep
    exact ⟨_, hstep, (congrArg BitVec.toNat hr).trans (incR_incR_toNat s.rReg), rfl⟩
  case stepRA =>
    have hstep := step_ready hs
    rw [hf] at hstep
    exact ⟨_, hstep, congrArg Regs.a (afterFetch_main s)⟩

end Sys2Proof.Machine
end

section
/-! PROOFS. 41_load16.md: what the 16-bit load group does. A word reaches a register pair, IX, IY or SP by one
update, and memory by two accesses. -/

namespace Sys2Proof.Machine

/-! ### Frames of the updates by a word -/

/-- The piece that IX or IY is. -/
def idxPart : Idx → Part
  | .ix => .ix
  | .iy => .iy

section Frames

variable (s : State)

theorem setSP_keeps (w : Word) : Keeps [.sp] s (s.setSP w) := by
  intro p hp
  cases p <;> simp_all [Part.same]

theorem setIdx_keeps (x : Idx) (w : Word) : Keeps [idxPart x] s (s.setIdx x w) := by
  intro p hp
  cases x <;> cases p <;> simp_all [Part.same, idxPart]

theorem setDd_keeps (p : PairDd) (w : Word) : Keeps (ddParts p) s (s.setDd p w) := by
  cases p with
  | bc => exact setBC_keeps s w
  | de => exact setDE_keeps s w
  | hl => exact setHL_keeps s w
  | sp => exact setSP_keeps s w

theorem setQq_keeps (p : PairQq) (w : Word) : Keeps (qqParts p) s (s.setQq p w) := by
  cases p with
  | bc => exact setBC_keeps s w
  | de => exact setDE_keeps s w
  | hl => exact setHL_keeps s w
  | af => exact setAF_keeps s w

theorem afterReadWord_keeps (a : Word) : Keeps [.memory] s (s.afterReadWord a) :=
  ((afterRead_keeps s a).trans (afterRead_keeps _ _)).mono (by simp)

theorem writeWord_keeps (a w : Word) : Keeps [.memory] s (s.writeWord a w) :=
  ((writeByte_keeps s a _).trans (writeByte_keeps _ _ _)).mono (by simp)

theorem push_keeps (w : Word) : Keeps [.memory, .sp] s (s.push w) :=
  (((writeByte_keeps s _ _).trans (writeByte_keeps _ _ _)).trans (setSP_keeps _ _)).mono (by simp)

theorem dropTop_keeps : Keeps [.memory, .sp] s s.dropTop :=
  (afterReadWord_keeps s _).trans (setSP_keeps _ _)

end Frames

/-! ### What a pair reads after it is set, and its halves -/

section Pairs

variable (s : State)

@[simp] theorem getIdx_setIdx (x : Idx) (w : Word) : (s.setIdx x w).getIdx x = w := by
  cases x <;> rfl

@[simp] theorem getDd_setDd (p : PairDd) (w : Word) : (s.setDd p w).getDd p = w := by
  cases p with
  | bc | de | hl => exact wordOf_lo_hi w
  | sp => rfl

@[simp] theorem getQq_setQq (p : PairQq) (w : Word) : (s.setQq p w).getQq p = w := by
  cases p <;> exact wordOf_lo_hi w

theorem loByte_hl : loByte s.hl = s.main.l := loByte_wordOf ..

theorem hiByte_hl : hiByte s.hl = s.main.h := hiByte_wordOf ..

end Pairs

/-! ### The rule of each kind of transfer between a word and memory -/

section Rules

variable {i : Instr} {bytes : List Byte} {m1 time : Nat} {s t : State} {changed : List Part}

/-- The rule of an instruction that reads the word at an address and puts it in a register, the one `get`
reads. -/
theorem accesses_of_exec_readWord {a : Word} (get : State → Word) (hb : encode i = bytes)
    (hm : i.m1 = m1) (ht : cost i s = time) (he : exec i s = .next t)
    (hk : Keeps changed (s.afterReadWord a) t) (hmem : t.mem = (s.afterReadWord a).mem)
    (hget : get t = s.readWord a) :
    Accesses i bytes m1 time s changed [.read a, .read (a + 1)] fun t => WordAt s a (get t) :=
  .intro hb hm ht he ((afterReadWord_keeps s a).trans hk) (hmem.trans (afterReadWord_mem s a))
    (hget ▸ wordAt_readWord s a)

/-- The rule of an instruction that stores a word at an address. -/
theorem accesses_of_exec_writeWord {a w : Word} (hb : encode i = bytes) (hm : i.m1 = m1)
    (ht : cost i s = time) (he : exec i s = .next (s.writeWord a w)) :
    Accesses i bytes m1 time s [] [.write a (loByte w), .write (a + 1) (hiByte w)] fun _ => True :=
  .intro hb hm ht he (writeWord_keeps s a w) (writeWord_mem ..) trivial

/-- The rule of an instruction that pushes a word. -/
theorem accesses_of_exec_push {w : Word} (hb : encode i = bytes) (hm : i.m1 = m1)
    (ht : cost i s = time) (he : exec i s = .next (s.push w)) :
    Accesses i bytes m1 time s [.sp] (pushed s w) fun t => t.sp = s.sp - 2 :=
  .intro hb hm ht he (push_keeps s w) (push_mem ..) (push_sp ..)

/-- The rule of an instruction that pops a word into a register other than SP, the one `get` reads. -/
theorem accesses_of_exec_pop (get : State → Word) (hb : encode i = bytes) (hm : i.m1 = m1)
    (ht : cost i s = time) (he : exec i s = .next t) (hk : Keeps changed s.dropTop t)
    (hmem : t.mem = s.dropTop.mem) (hsp : t.sp = s.dropTop.sp) (hget : get t = s.top) :
    Accesses i bytes m1 time s (.sp :: changed) (popped s)
      fun t => WordAt s s.sp (get t) ∧ t.sp = s.sp + 2 :=
  .intro hb hm ht he ((dropTop_keeps s).trans hk) (hmem.trans (dropTop_mem s))
    ⟨hget ▸ wordAt_readWord s s.sp, hsp⟩

end Rules

/-- Settles O35: each sets one pair, IX, IY or SP to a word it has. -/
theorem wordLoads : Obligations.WordLoads := by
  intro s p nn
  exact ⟨.intro rfl rfl rfl rfl (setDd_keeps s p nn) (getDd_setDd s p nn),
    .intro rfl rfl rfl rfl (setIdx_keeps s .ix nn) rfl,
    .intro rfl rfl rfl rfl (setIdx_keeps s .iy nn) rfl,
    .intro rfl rfl rfl rfl (setSP_keeps s _) rfl,
    .intro rfl rfl rfl rfl (setSP_keeps s _) rfl,
    .intro rfl rfl rfl rfl (setSP_keeps s _) rfl⟩

/-- Settles O36: each is one read of a word into a pair, IX or IY, or one write of a word. -/
theorem wordMemoryTransfers : Obligations.WordMemoryTransfers := by
  intro s p nn
  rw [← loByte_hl, ← hiByte_hl]
  refine ⟨?toHl, ?toDd, ?toIx, ?toIy, ?_, ?_, ?_, ?_⟩
  case toHl =>
    exact accesses_of_exec_readWord State.hl rfl rfl rfl rfl (setHL_keeps _ _) rfl (wordOf_lo_hi _)
  case toDd =>
    exact accesses_of_exec_readWord (State.getDd · p) rfl rfl rfl rfl (setDd_keeps _ p _)
      (setDd_mem ..) (getDd_setDd ..)
  case toIx =>
    exact accesses_of_exec_readWord State.ix rfl rfl rfl rfl (setIdx_keeps _ .ix _) rfl rfl
  case toIy =>
    exact accesses_of_exec_readWord State.iy rfl rfl rfl rfl (setIdx_keeps _ .iy _) rfl rfl
  all_goals exact accesses_of_exec_writeWord rfl rfl rfl rfl

/-- Settles O37: each is one push, or one pop into a pair, IX or IY. -/
theorem pushAndPop : Obligations.PushAndPop := by
  intro s p
  refine ⟨?_, ?_, ?_, ?toQq, ?toIx, ?toIy⟩
  case toQq =>
    exact accesses_of_exec_pop (State.getQq · p) rfl rfl rfl rfl (setQq_keeps _ p _)
      (setQq_mem ..) (setQq_sp ..) (getQq_setQq ..)
  case toIx =>
    exact accesses_of_exec_pop State.ix rfl rfl rfl rfl (setIdx_keeps _ .ix _) rfl rfl rfl
  case toIy =>
    exact accesses_of_exec_pop State.iy rfl rfl rfl rfl (setIdx_keeps _ .iy _) rfl rfl rfl
  all_goals exact accesses_of_exec_push rfl rfl rfl rfl

end Sys2Proof.Machine
end

section
/-! PROOFS. 42_exchange_block.md: the exchanges, and one repetition of block transfer and block search. A
repetition of a block instruction that repeats is one of its single form, PC put back or not. -/

namespace Sys2Proof.Machine

/-! ### Frames of the exchanges and of a repetition -/

section Frames

variable (s : State)

theorem exchangeAF_keeps : Keeps [.r8 .a, .f, .shadow] s s.exchangeAF := by
  intro p hp
  cases p with
  | r8 r => cases r <;> simp_all [Part.same, State.exchangeAF, State.getR8]
  | f | shadow => simp at hp
  | memory => exact ⟨rfl, fun _ => rfl⟩
  | wiring => exact ⟨rfl, rfl, rfl, rfl, rfl, rfl, rfl, rfl⟩
  | _ => rfl

theorem exchangeBank_keeps : Keeps (.shadow :: bankParts) s s.exchangeBank := by
  intro p hp
  cases p with
  | r8 r => cases r <;> simp_all [Part.same, State.exchangeBank, State.getR8, bankParts]
  | shadow => simp at hp
  | memory => exact ⟨rfl, fun _ => rfl⟩
  | wiring => exact ⟨rfl, rfl, rfl, rfl, rfl, rfl, rfl, rfl⟩
  | _ => rfl

theorem replaceTop_keeps (w : Word) : Keeps [.memory] s (s.replaceTop w) :=
  (((afterReadWord_keeps s _).trans (writeByte_keeps _ _ _)).trans (writeByte_keeps _ _ _)).mono
    (by simp)

theorem repeatIf_keeps (b : Bool) : Keeps [.pc] s (s.repeatIf b) := by
  intro p hp
  cases p <;> simp_all [Part.same]

theorem blockCopy_keeps (dir : Direction) :
    Keeps (.memory :: .f :: bankParts) s (s.blockCopy dir) :=
  ((((((afterRead_keeps s _).trans (writeByte_keeps _ _ _)).trans (setDE_keeps _ _)).trans
    (setHL_keeps _ _)).trans (setBC_keeps _ _)).trans (setFlags_keeps _ _)).mono
    (by simp [qqParts, bankParts])

theorem blockCompare_keeps (dir : Direction) :
    Keeps (.memory :: .f :: .r8 .b :: .r8 .c :: hlParts) s (s.blockCompare dir) :=
  ((((afterRead_keeps s _).trans (setHL_keeps _ _)).trans (setBC_keeps _ _)).trans
    (setFlags_keeps _ _)).mono (by simp [qqParts, hlParts])

/-- A choice by whether block transfer repeats, as one by BC before it. -/
theorem ite_copyAgain {α : Type} (x y : α) :
    (if s.copyAgain then x else y) = if s.bc = 1 then y else x := by
  simp [copyAgain_eq]

/-- A choice by whether block search repeats, as one by BC before it and the comparison. -/
theorem ite_compareAgain {α : Type} (x y : α) :
    (if s.compareAgain then x else y) =
      if s.bc = 1 ∨ s.main.a = s.readByte s.hl then y else x := by
  simp only [compareAgain_eq, decide_eq_true_eq, ite_not]

end Frames

/-! ### The rule of each kind of operation -/

section Rules

variable {i : Instr} {bytes : List Byte} {m1 time : Nat} {s t : State} {changed : List Part}

/-- The rule of an instruction that puts `w` in place of the word at SP and the old word in a register, the
one `get` reads. -/
theorem accesses_of_exec_replaceTop {w : Word} (get : State → Word) (hb : encode i = bytes)
    (hm : i.m1 = m1) (ht : cost i s = time) (he : exec i s = .next t)
    (hk : Keeps changed (s.replaceTop w) t) (hmem : t.mem = (s.replaceTop w).mem)
    (hget : get t = s.top) :
    Accesses i bytes m1 time s changed
      (popped s ++ [.write (s.sp + 1) (hiByte w), .write s.sp (loByte w)])
      fun t => WordAt s s.sp (get t) :=
  .intro hb hm ht he ((replaceTop_keeps s w).trans hk) (hmem.trans (replaceTop_mem s w))
    (hget ▸ wordAt_readWord s s.sp)

variable (dir : Direction)

/-- The rule of LDI and LDD. -/
theorem accesses_of_exec_blockCopy (hb : encode i = bytes) (hm : i.m1 = m1) (ht : cost i s = time)
    (he : exec i s = .next (s.blockCopy dir)) :
    Accesses i bytes m1 time s (.f :: bankParts) [.read s.hl, .write s.de (s.readByte s.hl)]
      fun t => t.de = dir.step s.de ∧ t.hl = dir.step s.hl ∧ t.bc = s.bc - 1
        ∧ FlagsAre s { s.flags with h := false, n := false, pv := decide (s.bc ≠ 1) } t :=
  have ⟨hde, hhl, hbc⟩ := blockCopy_pairs s dir
  .intro hb hm ht he (blockCopy_keeps s dir) (blockCopy_mem s dir)
    ⟨hde, hhl, hbc, blockCopy_flags s dir⟩

/-- The rule of LDIR and LDDR. -/
theorem accesses_of_exec_blockCopy_repeatIf (hb : encode i = bytes) (hm : i.m1 = m1)
    (ht : cost i s = if s.copyAgain then 21 else 16)
    (he : exec i s = .next ((s.blockCopy dir).repeatIf s.copyAgain)) :
    Accesses i bytes m1 (if s.bc = 1 then 16 else 21) s (.pc :: .f :: bankParts)
      [.read s.hl, .write s.de (s.readByte s.hl)]
      fun t => t.de = dir.step s.de ∧ t.hl = dir.step s.hl ∧ t.bc = s.bc - 1
        ∧ t.pc = (if s.bc = 1 then s.pc else s.pc - 2)
        ∧ FlagsAre s { s.flags with h := false, n := false, pv := decide (s.bc ≠ 1) } t := by
  obtain ⟨hde, hhl, hbc⟩ := blockCopy_pairs s dir
  refine .intro hb hm (ht.trans (ite_copyAgain s _ _)) he ?keeps
    ((repeatIf_mem ..).trans (blockCopy_mem s dir))
    ⟨(repeatIf_de ..).trans hde, (repeatIf_hl ..).trans hhl, (repeatIf_bc ..).trans hbc,
      (repeatIf_pc ..).trans (ite_copyAgain s _ _), repeatIf_flagsAre _ (blockCopy_flags s dir)⟩
  exact ((blockCopy_keeps s dir).trans (repeatIf_keeps _ _)).mono (by simp [bankParts])

/-- The rule of CPI and CPD. -/
theorem accesses_of_exec_blockCompare (hb : encode i = bytes) (hm : i.m1 = m1)
    (ht : cost i s = time) (he : exec i s = .next (s.blockCompare dir)) :
    Accesses i bytes m1 time s (.f :: .r8 .b :: .r8 .c :: hlParts) [.read s.hl]
      fun t => t.hl = dir.step s.hl ∧ t.bc = s.bc - 1
        ∧ FlagsAre s { diffFlags s.main.a (s.readByte s.hl) 0 with
            pv := decide (s.bc ≠ 1), c := s.flags.c } t :=
  have ⟨hhl, hbc⟩ := blockCompare_pairs s dir
  .intro hb hm ht he (blockCompare_keeps s dir) (blockCompare_mem s dir)
    ⟨hhl, hbc, blockCompare_flags s dir⟩

/-- The rule of CPIR and CPDR. -/
theorem accesses_of_exec_blockCompare_repeatIf (hb : encode i = bytes) (hm : i.m1 = m1)
    (ht : cost i s = if s.compareAgain then 21 else 16)
    (he : exec i s = .next ((s.blockCompare dir).repeatIf s.compareAgain)) :
    Accesses i bytes m1 (if s.bc = 1 ∨ s.main.a = s.readByte s.hl then 16 else 21) s
      (.pc :: .f :: .r8 .b :: .r8 .c :: hlParts) [.read s.hl]
      fun t => t.hl = dir.step s.hl ∧ t.bc = s.bc - 1
        ∧ t.pc = (if s.bc = 1 ∨ s.main.a = s.readByte s.hl then s.pc else s.pc - 2)
        ∧ FlagsAre s { diffFlags s.main.a (s.readByte s.hl) 0 with
            pv := decide (s.bc ≠ 1), c := s.flags.c } t := by
  obtain ⟨hhl, hbc⟩ := blockCompare_pairs s dir
  refine .intro hb hm (ht.trans (ite_compareAgain s _ _)) he ?keeps
    ((repeatIf_mem ..).trans (blockCompare_mem s dir))
    ⟨(repeatIf_hl ..).trans hhl, (repeatIf_bc ..).trans hbc,
      (repeatIf_pc ..).trans (ite_compareAgain s _ _),
      repeatIf_flagsAre _ (blockCompare_flags s dir)⟩
  exact ((blockCompare_keeps s dir).trans (repeatIf_keeps _ _)).mono (by simp [hlParts])

end Rules

/-- Settles O38: three swap registers, three put a register in place of the word at SP. -/
theorem exchanges : Obligations.Exchanges := by
  intro s
  rw [← loByte_hl, ← hiByte_hl]
  refine ⟨?deHl, ?afAf, ?bank, ?spHl, ?spIx, ?spIy⟩
  case deHl =>
    exact .intro rfl rfl rfl rfl ((setDE_keeps s _).trans (setHL_keeps _ _))
      ⟨wordOf_lo_hi s.hl, wordOf_lo_hi s.de⟩
  case afAf => exact .intro rfl rfl rfl rfl (exchangeAF_keeps s) ⟨rfl, rfl, rfl⟩
  case bank =>
    exact .intro rfl rfl rfl rfl (exchangeBank_keeps s) ⟨rfl, rfl, rfl, rfl, rfl, rfl, rfl⟩
  case spHl =>
    exact accesses_of_exec_replaceTop State.hl rfl rfl rfl rfl (setHL_keeps _ _) rfl
      (wordOf_lo_hi _)
  case spIx =>
    exact accesses_of_exec_replaceTop State.ix rfl rfl rfl rfl (setIdx_keeps _ .ix _) rfl rfl
  case spIy =>
    exact accesses_of_exec_replaceTop State.iy rfl rfl rfl rfl (setIdx_keeps _ .iy _) rfl rfl

/-- Settles O39: LDI and LDD are one `blockCopy`, up or down, and LDIR and LDDR are one with PC put back
where BC before it is not 1. -/
theorem blockTransfers : Obligations.BlockTransfers := fun _ =>
  ⟨accesses_of_exec_blockCopy .up rfl rfl rfl rfl,
    accesses_of_exec_blockCopy_repeatIf .up rfl rfl rfl rfl,
    accesses_of_exec_blockCopy .down rfl rfl rfl rfl,
    accesses_of_exec_blockCopy_repeatIf .down rfl rfl rfl rfl⟩

/-- Settles O40: CPI and CPD are one `blockCompare`, up or down, and CPIR and CPDR are one with PC put back
where BC before it is not 1 and A differs from the byte. -/
theorem blockSearches : Obligations.BlockSearches := fun _ =>
  ⟨accesses_of_exec_blockCompare .up rfl rfl rfl rfl,
    accesses_of_exec_blockCompare_repeatIf .up rfl rfl rfl rfl,
    accesses_of_exec_blockCompare .down rfl rfl rfl rfl,
    accesses_of_exec_blockCompare_repeatIf .down rfl rfl rfl rfl⟩

end Sys2Proof.Machine
end

section
/-! PROOFS. 43_arith8.md: what the 8-bit arithmetic group does. Every form of it is one of three operations:
`aluA` with a byte at hand, `aluA` after one read, or a place set to its byte plus or minus 1 and the flags. -/

namespace Sys2Proof.Machine

/-! ### The eight operations on A -/

/-- What an operation on A with a byte must leave, as the rules of 43_arith8.md say it in numbers. -/
def aluResult (op : AluOp) (s : State) (v : Byte) : State → Prop :=
  match op with
  | .add => SumInA s v 0
  | .adc => SumInA s v s.flags.c.toNat
  | .sub => DiffInA s v 0
  | .sbc => DiffInA s v s.flags.c.toNat
  | .and => LogicInA s and v true
  | .xor => LogicInA s xor v false
  | .or => LogicInA s or v false
  | .cp => FlagsAre s (diffFlags s.main.a v 0)

/-- The pieces an operation on A changes: all but CP write A. -/
def aluParts : AluOp → List Part
  | .cp => [.f]
  | .add | .adc | .sub | .sbc | .and | .xor | .or => [.r8 .a, .f]

section Operations

variable (s : State)

theorem aluA_result (op : AluOp) (v : Byte) : aluResult op s v (s.aluA op v) := by
  cases op with
  | add => exact aluA_add s v
  | adc => exact aluA_adc s v
  | sub => exact aluA_sub s v
  | sbc => exact aluA_sbc s v
  | and => exact aluA_and s v
  | xor => exact aluA_xor s v
  | or => exact aluA_or s v
  | cp => exact aluA_cp s v

/-- What must be left is about A and F, so a read of memory before it makes no difference. -/
theorem aluResult_afterRead (op : AluOp) (a : Word) (v : Byte) :
    aluResult op (s.afterRead a) v = aluResult op s v := by
  cases op <;> rfl

theorem setR8_setFlags_keeps (r : R8) (v : Byte) (g : Flags) :
    Keeps [.r8 r, .f] s ((s.setR8 r v).setFlags g) :=
  (setR8_keeps s r v).trans (setFlags_keeps _ g)

/-- CP writes A back to A, which is no change. -/
theorem aluA_keeps (op : AluOp) (v : Byte) : Keeps (aluParts op) s (s.aluA op v) := by
  cases op with
  | cp => exact setFlags_keeps s _
  | _ => exact setR8_setFlags_keeps s .a _ _

end Operations

/-! ### The rule of each kind of operation -/

section Rules

variable {i : Instr} {bytes : List Byte} {m1 time : Nat} {s : State}

/-- The rule of an instruction that operates on A with a byte it has. -/
theorem follows_of_exec_aluA (op : AluOp) {v : Byte} (hb : encode i = bytes) (hm : i.m1 = m1)
    (ht : cost i s = time) (he : exec i s = .next (s.aluA op v)) :
    Follows i bytes m1 time s (aluParts op) (aluResult op s v) :=
  .intro hb hm ht he (aluA_keeps s op v) (aluA_result s op v)

/-- The rule of an instruction that operates on A with a byte of memory. -/
theorem accesses_of_exec_aluA_read (op : AluOp) {a : Word} (hb : encode i = bytes) (hm : i.m1 = m1)
    (ht : cost i s = time) (he : exec i s = .next ((s.afterRead a).aluA op (s.readByte a))) :
    Accesses i bytes m1 time s (aluParts op) [.read a] (aluResult op s (s.readByte a)) :=
  .intro hb hm ht he ((afterRead_keeps s a).trans (aluA_keeps _ op _)) (aluA_mem ..)
    (aluResult_afterRead s op a _ ▸ aluA_result (s.afterRead a) op _)

/-- The rule of an instruction that sets a register and the flags, for flags known by an equation. -/
theorem follows_of_exec_setR8_setFlags {r : R8} {v : Byte} {g g' : Flags} (hg : g' = g)
    (hb : encode i = bytes) (hm : i.m1 = m1) (ht : cost i s = time)
    (he : exec i s = .next ((s.setR8 r v).setFlags g')) :
    Follows i bytes m1 time s [.r8 r, .f] fun t => t.getR8 r = v ∧ FlagsAre s g t :=
  .intro hb hm ht he (setR8_setFlags_keeps s r v g') ⟨by simp, flagsAre_of (by simp) hg⟩

/-- The rule of an instruction that reads a byte of memory, writes one there and sets the flags, known by an
equation. -/
theorem rewrites_of_exec_setFlags {a : Word} {v : Byte} {g g' : Flags} (hg : g' = g)
    (hb : encode i = bytes) (hm : i.m1 = m1) (ht : cost i s = time)
    (he : exec i s = .next (((s.afterRead a).writeByte a v).setFlags g')) :
    Rewrites i bytes m1 time s [.f] a v (FlagsAre s g) :=
  .intro hb hm ht he
    ((((afterRead_keeps s a).trans (writeByte_keeps _ a v)).trans (setFlags_keeps _ g')).mono
      (by simp))
    rfl (flagsAre_of rfl hg)

end Rules

/-- Settles O41: `aluA` for ADD and ADC, with a byte at hand or one read. -/
theorem byteAdditions : Obligations.ByteAdditions := by
  intro s q n d
  rw [← ea_ix, ← ea_iy]
  refine ⟨?addR, ?addN, ?addHl, ?addIx, ?addIy, ?adcR, ?adcN, ?adcHl, ?adcIx, ?adcIy⟩
  case addR | addN => exact follows_of_exec_aluA .add rfl rfl rfl rfl
  case addHl | addIx | addIy => exact accesses_of_exec_aluA_read .add rfl rfl rfl rfl
  case adcR | adcN => exact follows_of_exec_aluA .adc rfl rfl rfl rfl
  case adcHl | adcIx | adcIy => exact accesses_of_exec_aluA_read .adc rfl rfl rfl rfl

/-- Settles O42: `aluA` for SUB and SBC, with a byte at hand or one read. -/
theorem byteSubtractions : Obligations.ByteSubtractions := by
  intro s q n d
  rw [← ea_ix, ← ea_iy]
  refine ⟨?subR, ?subN, ?subHl, ?subIx, ?subIy, ?sbcR, ?sbcN, ?sbcHl, ?sbcIx, ?sbcIy⟩
  case subR | subN => exact follows_of_exec_aluA .sub rfl rfl rfl rfl
  case subHl | subIx | subIy => exact accesses_of_exec_aluA_read .sub rfl rfl rfl rfl
  case sbcR | sbcN => exact follows_of_exec_aluA .sbc rfl rfl rfl rfl
  case sbcHl | sbcIx | sbcIy => exact accesses_of_exec_aluA_read .sbc rfl rfl rfl rfl

/-- Settles O43: `aluA` for CP and AND, with a byte at hand or one read. -/
theorem byteComparisonsAndConjunctions : Obligations.ByteComparisonsAndConjunctions := by
  intro s q n d
  rw [← ea_ix, ← ea_iy]
  refine ⟨?cpR, ?cpN, ?cpHl, ?cpIx, ?cpIy, ?andR, ?andN, ?andHl, ?andIx, ?andIy⟩
  case cpR | cpN => exact follows_of_exec_aluA .cp rfl rfl rfl rfl
  case cpHl | cpIx | cpIy => exact accesses_of_exec_aluA_read .cp rfl rfl rfl rfl
  case andR | andN => exact follows_of_exec_aluA .and rfl rfl rfl rfl
  case andHl | andIx | andIy => exact accesses_of_exec_aluA_read .and rfl rfl rfl rfl

/-- Settles O44: `aluA` for OR and XOR, with a byte at hand or one read. -/
theorem byteDisjunctions : Obligations.ByteDisjunctions := by
  intro s q n d
  rw [← ea_ix, ← ea_iy]
  refine ⟨?orR, ?orN, ?orHl, ?orIx, ?orIy, ?xorR, ?xorN, ?xorHl, ?xorIx, ?xorIy⟩
  case orR | orN => exact follows_of_exec_aluA .or rfl rfl rfl rfl
  case orHl | orIx | orIy => exact accesses_of_exec_aluA_read .or rfl rfl rfl rfl
  case xorR | xorN => exact follows_of_exec_aluA .xor rfl rfl rfl rfl
  case xorHl | xorIx | xorIy => exact accesses_of_exec_aluA_read .xor rfl rfl rfl rfl

/-- Settles O45: a place set to its byte plus or minus 1, with the flags of `inc8` or `dec8`. -/
theorem byteIncrements : Obligations.ByteIncrements := by
  intro s r d
  rw [← ea_ix, ← ea_iy]
  have hinc (v : Byte) := (inc8_spec v s.flags.c).2
  have hdec (v : Byte) := (dec8_spec v s.flags.c).2
  refine ⟨?incR, ?incHl, ?incIx, ?incIy, ?decR, ?decHl, ?decIx, ?decIy⟩
  case incR => exact follows_of_exec_setR8_setFlags (hinc _) rfl rfl rfl rfl
  case incHl | incIx | incIy => exact rewrites_of_exec_setFlags (hinc _) rfl rfl rfl rfl
  case decR => exact follows_of_exec_setR8_setFlags (hdec _) rfl rfl rfl rfl
  case decHl | decIx | decIy => exact rewrites_of_exec_setFlags (hdec _) rfl rfl rfl rfl

end Sys2Proof.Machine
end

section
/-! PROOFS. 44_gp_arith_cpu_control.md: the adjustments of A and of C, decimal arithmetic by DAA, and CPU
control. -/

namespace Sys2Proof.Machine

/-! ### Frames of the control updates -/

section Frames

variable (s : State)

theorem setHalted_keeps (b : Bool) : Keeps [.halted] s { s with halted := b } := by
  intro p hp
  cases p <;> simp_all [Part.same, State.getR8, State.readByte]

theorem setIffs_keeps (b1 b2 : Bool) : Keeps [.iff1, .iff2] s { s with iff1 := b1, iff2 := b2 } := by
  intro p hp
  cases p <;> simp_all [Part.same, State.getR8, State.readByte]

theorem setEiDelay_keeps (b : Bool) : Keeps [.eiDelay] s { s with eiDelay := b } := by
  intro p hp
  cases p <;> simp_all [Part.same, State.getR8, State.readByte]

theorem setIm_keeps (m : IntMode) : Keeps [.im] s { s with im := m } := by
  intro p hp
  cases p <;> simp_all [Part.same, State.getR8, State.readByte]

end Frames

/-! ### The rule of each kind of adjustment -/

section Rules

variable {i : Instr} {bytes : List Byte} {m1 time : Nat} {s : State}

/-- A rule may say less of the state after. -/
theorem Follows.imp {changed : List Part} {after after' : State → Prop}
    (h : Follows i bytes m1 time s changed after) (himp : ∀ t, after t → after' t) :
    Follows i bytes m1 time s changed after' := by
  obtain ⟨hb, hm, ht, t, he, hk, ha⟩ := h
  exact .intro hb hm ht he hk (himp t ha)

/-- The rule of an instruction that sets the flags alone. -/
theorem follows_of_exec_setFlags {g : Flags} (hb : encode i = bytes) (hm : i.m1 = m1)
    (ht : cost i s = time) (he : exec i s = .next (s.setFlags g)) :
    Follows i bytes m1 time s [.f] (FlagsAre s g) :=
  .intro hb hm ht he (setFlags_keeps s g) (flagsAre_setFlags s s g rfl)

end Rules

/-- The flags of DAA, from the byte and the flags before it and the byte it leaves. -/
theorem daa8_flags (a : Byte) (g : Flags) :
    (daa8 a g).2 =
      { s := (daa8 a g).1.getLsbD 7, z := decide ((daa8 a g).1 = 0)
        h := if g.n = true then decide (g.h = true ∧ a.toNat % 16 < 6)
          else decide (9 < a.toNat % 16)
        pv := evenOnes (daa8 a g).1
        n := g.n
        c := decide (g.c = true ∨ 0x99 < a.toNat) } := by
  simp [daa8, parity_eq_evenOnes, beq_eq_decide]

/-- CPL's inversion is the distance from 255. -/
theorem complement_toNat (a : Byte) : (255 - a).toNat = 255 - a.toNat := by
  bv_omega

/-- A difference from 0 is the negative modulo 256. -/
theorem sub8_zero_toNat (a : Byte) : (sub8 0 a false).1.toNat = (256 - a.toNat) % 256 := by
  have ha := a.isLt
  rw [sub8_res, show (0 : Byte).toNat = 0 from rfl, Bool.toNat_false]
  omega

/-- Settles O46: DAA, CPL and NEG set A and the flags, CCF and SCF the flags alone. -/
theorem accumulatorAdjustments : Obligations.AccumulatorAdjustments := by
  intro s
  refine ⟨?daa, ?cpl, ?neg, ?ccf, ?scf⟩
  case daa =>
    exact .intro rfl rfl rfl rfl (setR8_setFlags_keeps s .a _ _)
      ⟨_, rfl, daa8_spec s.main.a s.flags, flagsAre_of rfl (daa8_flags s.main.a s.flags)⟩
  case cpl =>
    exact (follows_of_exec_setR8_setFlags rfl rfl rfl rfl rfl).imp fun _ ⟨ha, hf⟩ =>
      ⟨(congrArg BitVec.toNat ha).trans (complement_toNat _), hf⟩
  case neg =>
    exact (follows_of_exec_setR8_setFlags (sub8_spec 0 s.main.a false).2 rfl rfl rfl rfl).imp
      fun _ ⟨ha, hf⟩ => ⟨(congrArg BitVec.toNat ha).trans (sub8_zero_toNat _), hf⟩
  case ccf | scf => exact follows_of_exec_setFlags rfl rfl rfl rfl

/-! ### DAA after a sum or a difference of two-digit decimal numbers -/

theorem exists_digits {n : Nat} (h : n < 100) : ∃ p < 10, ∃ q < 10, n = 10 * p + q :=
  ⟨n / 10, by omega, n % 10, by omega, by omega⟩

theorem packBcd_digits {p q : Nat} (hp : p < 10) (hq : q < 10) :
    (packBcd (10 * p + q)).toNat = 16 * p + q := by
  rw [packBcd, BitVec.toNat_ofNat]
  omega

section Digits

/-! DAA corrects a half of the byte exactly where the decimal sum has a carry from that digit, or the decimal
difference a borrow. The numbers have the digits `p q` and `u v`, and `c` is the carry or the borrow in. -/

variable {p q u v c : Nat}

theorem sum_corrects_low (hq : q < 10) (hv : v < 10) (hc : c ≤ 1) :
    (16 ≤ (16 * p + q) % 16 + (16 * u + v) % 16 + c ∨
      9 < (16 * p + q + (16 * u + v) + c) % 256 % 16) ↔ 10 ≤ q + v + c := by
  omega

theorem sum_corrects_high (hp : p < 10) (hq : q < 10) (hu : u < 10) (hv : v < 10) (hc : c ≤ 1) :
    (256 ≤ 16 * p + q + (16 * u + v) + c ∨
      0x99 < (16 * p + q + (16 * u + v) + c) % 256) ↔ 100 ≤ 10 * p + q + (10 * u + v) + c := by
  omega

theorem diff_corrects_low (hq : q < 10) (hv : v < 10) (hc : c ≤ 1) :
    ((16 * p + q) % 16 < (16 * u + v) % 16 + c ∨
      9 < (16 * p + q + 512 - (16 * u + v) - c) % 256 % 16) ↔ q < v + c := by
  omega

theorem diff_corrects_high (hp : p < 10) (hq : q < 10) (hu : u < 10) (hv : v < 10) (hc : c ≤ 1) :
    (16 * p + q < 16 * u + v + c ∨
      0x99 < (16 * p + q + 512 - (16 * u + v) - c) % 256) ↔ 10 * p + q < 10 * u + v + c := by
  omega

/-- The digits of a sum modulo 100, by the carries. -/
theorem exists_sum_digits (hp : p < 10) (hq : q < 10) (hu : u < 10) (hv : v < 10) (hc : c ≤ 1) :
    ∃ r < 10, ∃ w < 10, (10 * p + q + (10 * u + v) + c) % 100 = 10 * r + w ∧
      w + (if 10 ≤ q + v + c then 10 else 0) = q + v + c ∧
      r + (if 100 ≤ 10 * p + q + (10 * u + v) + c then 10 else 0)
        = p + u + (if 10 ≤ q + v + c then 1 else 0) := by
  obtain ⟨r, hr, w, hw, h⟩ :=
    exists_digits (Nat.mod_lt (10 * p + q + (10 * u + v) + c) (by decide : 0 < 100))
  have hlow : w + (if 10 ≤ q + v + c then 10 else 0) = q + v + c := by split <;> omega
  refine ⟨r, hr, w, hw, h, hlow, ?_⟩
  split_ifs at hlow ⊢ <;> omega

end Digits

section Packed

variable {x y : Nat} (hx : x < 100) (hy : y < 100) (c : Bool)
include hx hy

/-- DAA after a sum of packed decimal numbers: the sum modulo 100, and the hundred in C. -/
theorem daa8_add8_packBcd :
    (daa8 (add8 (packBcd x) (packBcd y) c).1 (add8 (packBcd x) (packBcd y) c).2).1
        = packBcd ((x + y + c.toNat) % 100) ∧
      (daa8 (add8 (packBcd x) (packBcd y) c).1 (add8 (packBcd x) (packBcd y) c).2).2.c
        = decide (100 ≤ x + y + c.toNat) := by
  have hc : c.toNat ≤ 1 := Bool.toNat_le c
  obtain ⟨p, hp, q, hq, rfl⟩ := exists_digits hx
  obtain ⟨u, hu, v, hv, rfl⟩ := exists_digits hy
  obtain ⟨r, hr, w, hw, hrw, hlow, hhigh⟩ := exists_sum_digits hp hq hu hv hc
  obtain ⟨hsum, hflags⟩ := add8_spec (packBcd (10 * p + q)) (packBcd (10 * u + v)) c
  rw [packBcd_digits hp hq, packBcd_digits hu hv] at hsum
  rw [hflags, daa8_flags, ← BitVec.toNat_inj, daa8_spec, hsum, hrw, packBcd_digits hr hw]
  simp only [sumFlags, packBcd_digits hp hq, packBcd_digits hu hv, decide_eq_true_eq,
    sum_corrects_low hq hv hc, sum_corrects_high hp hq hu hv hc, Bool.false_eq_true,
    if_false, and_true]
  clear hrw
  split_ifs at * <;> omega

/-- DAA after a difference of packed decimal numbers: the difference modulo 100, and the borrow in C. -/
theorem daa8_sub8_packBcd :
    (daa8 (sub8 (packBcd x) (packBcd y) c).1 (sub8 (packBcd x) (packBcd y) c).2).1
        = packBcd ((x + 100 - y - c.toNat) % 100) ∧
      (daa8 (sub8 (packBcd x) (packBcd y) c).1 (sub8 (packBcd x) (packBcd y) c).2).2.c
        = decide (x < y + c.toNat) := by
  have hc : c.toNat ≤ 1 := Bool.toNat_le c
  obtain ⟨p, hp, q, hq, rfl⟩ := exists_digits hx
  obtain ⟨u, hu, v, hv, rfl⟩ := exists_digits hy
  obtain ⟨r, hr, w, hw, hrw⟩ :=
    exists_digits (Nat.mod_lt (10 * p + q + 100 - (10 * u + v) - c.toNat) (by decide : 0 < 100))
  obtain ⟨hdiff, hflags⟩ := sub8_spec (packBcd (10 * p + q)) (packBcd (10 * u + v)) c
  rw [packBcd_digits hp hq, packBcd_digits hu hv] at hdiff
  rw [hflags, daa8_flags, ← BitVec.toNat_inj, daa8_spec, hdiff, hrw, packBcd_digits hr hw]
  simp only [diffFlags, packBcd_digits hp hq, packBcd_digits hu hv, decide_eq_true_eq,
    diff_corrects_low hq hv hc, diff_corrects_high hp hq hu hv hc, if_true, and_true]
  split_ifs <;> omega

end Packed

/-- DAA after an operation on A adjusts the byte of that operation by its flags. -/
theorem exec_daa_aluA (s : State) (op : AluOp) (v : Byte) :
    ∃ u : State, exec .daa (s.aluA op v) = .next u ∧
      u.main.a = (daa8 (alu8 op s.main.a v s.flags.c).1 (alu8 op s.main.a v s.flags.c).2).1 ∧
      u.flags.c = (daa8 (alu8 op s.main.a v s.flags.c).1 (alu8 op s.main.a v s.flags.c).2).2.c := by
  refine ⟨_, rfl, ?_, ?_⟩ <;> simp [State.aluA, State.flags]

/-- Settles O47: `aluA` for ADC or SBC, then DAA on its byte and its flags. -/
theorem decimalArithmetic : Obligations.DecimalArithmetic := by
  intro s x y hx hy hxs
  constructor
  · obtain ⟨u, hu, ha, hc⟩ := exec_daa_aluA s .adc (packBcd y)
    obtain ⟨hsum, hcarry⟩ := daa8_add8_packBcd hx hy s.flags.c
    rw [hxs] at ha hc
    exact ⟨_, u, rfl, hu, ha.trans hsum, hc.trans hcarry⟩
  · obtain ⟨u, hu, ha, hc⟩ := exec_daa_aluA s .sbc (packBcd y)
    obtain ⟨hdiff, hborrow⟩ := daa8_sub8_packBcd hx hy s.flags.c
    rw [hxs] at ha hc
    exact ⟨_, u, rfl, hu, ha.trans hdiff, hc.trans hborrow⟩

/-! ### CPU control -/

/-- Settles O48: NOP leaves the state as it is, each other sets fields of the control state. -/
theorem cpuControl : Obligations.CpuControl := by
  intro s
  refine ⟨?nop, ?halt, ?di, ?ei, ?im0, ?im1, ?im2⟩
  case nop => exact follows_of_exec_self rfl rfl rfl rfl
  case halt => exact .intro rfl rfl rfl rfl (setHalted_keeps s true) rfl
  case di => exact .intro rfl rfl rfl rfl (setIffs_keeps s false false) ⟨rfl, rfl⟩
  case ei =>
    exact .intro rfl rfl rfl rfl ((setIffs_keeps s true true).trans (setEiDelay_keeps _ true))
      ⟨rfl, rfl, rfl⟩
  case im0 | im1 | im2 => exact .intro rfl rfl rfl rfl (setIm_keeps s _) rfl

end Sys2Proof.Machine
end

section
/-! PROOFS. 45_arith16.md: what the 16-bit arithmetic group does. A sum or a difference sets HL, IX or IY and
the flags; INC and DEC set one place to its word plus or minus 1 and leave the flags. -/

namespace Sys2Proof.Machine

/-! ### Results as numbers -/

/-- `add16` as arithmetic on numbers. -/
theorem add16_spec (a v : Word) (g : Flags) :
    (add16 a v g).1.toNat = (a.toNat + v.toNat) % 65536 ∧
      (add16 a v g).2 = { g with
        h := decide (4096 ≤ a.toNat % 4096 + v.toNat % 4096), n := false
        c := decide (65536 ≤ a.toNat + v.toNat) } :=
  ⟨BitVec.toNat_ofNat .., rfl⟩

theorem word_succ_toNat (w : Word) : (w + 1).toNat = (w.toNat + 1) % 65536 :=
  BitVec.toNat_add w 1

/-- Taking 1 away is adding 65535 modulo 65536. -/
theorem word_pred_toNat (w : Word) : (w - 1).toNat = (w.toNat + 65535) % 65536 := by
  bv_omega

/-! ### The rule of each kind of operation -/

/-- Setting the flags after an update changes F besides. -/
theorem Keeps.setFlags {l : List Part} {s t : State} (h : Keeps l s t) (g : Flags) :
    Keeps (.f :: l) s (t.setFlags g) :=
  (h.trans (setFlags_keeps t g)).mono (by simp [or_comm])

section Rules

variable {i : Instr} {bytes : List Byte} {m1 time : Nat} {s : State}

/-- The rule of an instruction that puts a word in a pair, for a word known as a number. -/
theorem follows_of_exec_setDd {p : PairDd} {w : Word} {n : Nat} (hw : w.toNat = n)
    (hb : encode i = bytes) (hm : i.m1 = m1) (ht : cost i s = time)
    (he : exec i s = .next (s.setDd p w)) :
    Follows i bytes m1 time s (ddParts p) fun t => (t.getDd p).toNat = n :=
  .intro hb hm ht he (setDd_keeps s p w) (by rw [getDd_setDd, hw])

/-- The rule of an instruction that puts a word in IX or IY, for a word known as a number. -/
theorem follows_of_exec_setIdx (x : Idx) {w : Word} {n : Nat} (hw : w.toNat = n)
    (hb : encode i = bytes) (hm : i.m1 = m1) (ht : cost i s = time)
    (he : exec i s = .next (s.setIdx x w)) :
    Follows i bytes m1 time s [idxPart x] fun t => (t.getIdx x).toNat = n :=
  .intro hb hm ht he (setIdx_keeps s x w) (by rw [getIdx_setIdx, hw])

/-- The rule of an instruction that puts a result in HL and its flags in F, for a result known as a number
and flags known by an equation. -/
theorem follows_of_exec_setHL_setFlags {r : Word × Flags} {n : Nat} {g : Flags}
    (hr : r.1.toNat = n ∧ r.2 = g) (hb : encode i = bytes) (hm : i.m1 = m1)
    (ht : cost i s = time) (he : exec i s = .next ((s.setHL r.1).setFlags r.2)) :
    Follows i bytes m1 time s (.f :: hlParts) fun t => t.hl.toNat = n ∧ FlagsAre s g t :=
  have hhl : ((s.setHL r.1).setFlags r.2).hl = r.1 := wordOf_lo_hi r.1
  .intro hb hm ht he ((setHL_keeps s r.1).setFlags r.2)
    ⟨(congrArg BitVec.toNat hhl).trans hr.1, flagsAre_of rfl hr.2⟩

/-- The rule of ADD to IX or IY. -/
theorem follows_of_exec_addIdx (x : Idx) {p : PairPp} (hb : encode i = bytes) (hm : i.m1 = m1)
    (ht : cost i s = time) (he : exec i s = .next (s.addIdx x p)) :
    Follows i bytes m1 time s [.f, idxPart x] fun t =>
      (t.getIdx x).toNat = ((s.getIdx x).toNat + (s.getPp x p).toNat) % 65536
        ∧ FlagsAre s { s.flags with
            h := decide (4096 ≤ (s.getIdx x).toNat % 4096 + (s.getPp x p).toNat % 4096), n := false
            c := decide (65536 ≤ (s.getIdx x).toNat + (s.getPp x p).toNat) } t := by
  obtain ⟨hsum, hflags⟩ := add16_spec (s.getIdx x) (s.getPp x p) s.flags
  have hidx : (s.addIdx x p).getIdx x = (add16 (s.getIdx x) (s.getPp x p) s.flags).1 := by
    cases x <;> rfl
  exact .intro hb hm ht he ((setIdx_keeps s x _).setFlags _)
    ⟨(congrArg BitVec.toNat hidx).trans hsum, flagsAre_of (by simp) hflags⟩

end Rules

/-- Settles O49: ADD, ADC and SBC set HL, IX or IY and the flags by `add16`, `adc16` and `sbc16`, and INC and
DEC set a pair, IX or IY. -/
theorem wordArithmetic : Obligations.WordArithmetic := by
  intro s p q
  refine ⟨?addHl, ?adcHl, ?sbcHl, ?addIx, ?addIy, ?incSs, ?incIx, ?incIy, ?decSs, ?decIx, ?decIy⟩
  case addHl => exact follows_of_exec_setHL_setFlags (add16_spec ..) rfl rfl rfl rfl
  case adcHl => exact follows_of_exec_setHL_setFlags (adc16_spec ..) rfl rfl rfl rfl
  case sbcHl => exact follows_of_exec_setHL_setFlags (sbc16_spec ..) rfl rfl rfl rfl
  case addIx => exact follows_of_exec_addIdx .ix rfl rfl rfl rfl
  case addIy => exact follows_of_exec_addIdx .iy rfl rfl rfl rfl
  case incSs => exact follows_of_exec_setDd (word_succ_toNat _) rfl rfl rfl rfl
  case incIx => exact follows_of_exec_setIdx .ix (word_succ_toNat _) rfl rfl rfl rfl
  case incIy => exact follows_of_exec_setIdx .iy (word_succ_toNat _) rfl rfl rfl rfl
  case decSs => exact follows_of_exec_setDd (word_pred_toNat _) rfl rfl rfl rfl
  case decIx => exact follows_of_exec_setIdx .ix (word_pred_toNat _) rfl rfl rfl rfl
  case decIy => exact follows_of_exec_setIdx .iy (word_pred_toNat _) rfl rfl rfl rfl

end Sys2Proof.Machine
end

section
/-! PROOFS. 46_rotate_shift.md: what the rotates and shifts do. The four forms of a CB-table operation are one
`shiftPlace` each, a rotate of A is one `rotateA`, and RLD and RRD are one `rotateDigits`. -/

namespace Sys2Proof.Machine

/-! ### The CB-table operations in their four forms -/

/-- The code of an operation in the CB table (30_encoding.md R106). -/
def ShiftOp.code : ShiftOp → BitVec 3
  | .rlc => 0
  | .rrc => 1
  | .rl => 2
  | .rr => 3
  | .sla => 4
  | .sra => 5
  | .srl => 7

/-- The form of an instruction that has the place `p` for its operand. -/
def Place.form (p : Place) (onR : R8 → Instr) (onHl : Instr) (onIx onIy : Byte → Instr) : Instr :=
  match p with
  | .reg r => onR r
  | .atHL => onHl
  | .atIdx .ix d => onIx d
  | .atIdx .iy d => onIy d

/-- The instruction that does an operation on a place (46_rotate_shift.md R260 to R287). -/
def ShiftOp.instr (op : ShiftOp) (p : Place) : Instr :=
  match op with
  | .rlc => p.form .rlcR .rlcHl .rlcIxD .rlcIyD
  | .rrc => p.form .rrcR .rrcHl .rrcIxD .rrcIyD
  | .rl => p.form .rlR .rlHl .rlIxD .rlIyD
  | .rr => p.form .rrR .rrHl .rrIxD .rrIyD
  | .sla => p.form .slaR .slaHl .slaIxD .slaIyD
  | .sra => p.form .sraR .sraHl .sraIxD .sraIyD
  | .srl => p.form .srlR .srlHl .srlIxD .srlIyD

/-- The meaning of such an instruction is the shift of its place. -/
theorem exec_shiftOp_instr (op : ShiftOp) (p : Place) (s : State) :
    exec (op.instr p) s = .next (s.shiftPlace op p) := by
  obtain r | _ | ⟨_ | _, d⟩ := p <;> cases op <;> rfl

/-- A shift of a place in memory is one read, one write and the flags. -/
theorem shiftPlace_of_address (op : ShiftOp) {p : Place} {s : State} {a : Word}
    (hp : p.address s = some a) :
    s.shiftPlace op p =
      (let r := shift8 op (s.readByte a) s.flags.c
       ((s.afterRead a).writeByte a r.1).setFlags (shiftFlags r.1 r.2)) := by
  cases p with
  | reg r => cases hp
  | atHL | atIdx => cases hp; rfl

section Forms

variable {op : ShiftOp} {shifts : Byte → Bool → Byte → Prop} {out : Byte → Bool}
  (hop : ∀ v c, shifts v c (shift8 op v c).1 ∧ (shift8 op v c).2 = out v)

include hop

/-- The flags of a shift, from the byte it leaves and the bit it moves out. -/
theorem shiftFlags_of_spec (v : Byte) (c : Bool) :
    shiftFlags (shift8 op v c).1 (shift8 op v c).2 = shiftedFlags (shift8 op v c).1 (out v) := by
  rw [shiftFlags_spec, (hop v c).2]

/-- The rule of a shift of a register. -/
theorem follows_of_exec_shiftReg {i : Instr} {bytes : List Byte} {m1 time : Nat} {s : State} {r : R8}
    (hb : encode i = bytes) (hm : i.m1 = m1) (ht : cost i s = time)
    (he : exec i s = .next (s.shiftPlace op (.reg r))) :
    Follows i bytes m1 time s [.r8 r, .f] fun t => shifts (s.getR8 r) s.flags.c (t.getR8 r)
      ∧ FlagsAre s (shiftedFlags (t.getR8 r) (out (s.getR8 r))) t :=
  (follows_of_exec_setR8_setFlags (shiftFlags_of_spec hop _ _) hb hm ht he).imp
    fun _ ⟨hr, hf⟩ => hr ▸ ⟨(hop _ _).1, hf⟩

/-- The rule of a shift of a place in memory. -/
theorem shiftsAt_of_exec {i : Instr} {bytes : List Byte} {time : Nat} {s : State} {p : Place} {a : Word}
    (hp : p.address s = some a) (hb : encode i = bytes) (hm : i.m1 = 2) (ht : cost i s = time)
    (he : exec i s = .next (s.shiftPlace op p)) : ShiftsAt i bytes time s a shifts out := by
  rw [shiftPlace_of_address op hp] at he
  exact ⟨_, (hop _ _).1, rewrites_of_exec_setFlags (shiftFlags_of_spec hop _ _) hb hm ht he⟩

end Forms

/-- A CB-table operation in its four forms does what is known of its bits. -/
theorem shiftForms_of_spec (op : ShiftOp) {shifts : Byte → Bool → Byte → Prop} {out : Byte → Bool}
    (hop : ∀ v c, shifts v c (shift8 op v c).1 ∧ (shift8 op v c).2 = out v) :
    ShiftForms op.code (fun r => op.instr (.reg r)) (op.instr .atHL) (fun d => op.instr (.atIdx .ix d))
      (fun d => op.instr (.atIdx .iy d)) shifts out := by
  intro s r d
  rw [← ea_ix, ← ea_iy]
  have hexec (p : Place) := exec_shiftOp_instr op p s
  refine ⟨follows_of_exec_shiftReg hop ?_ ?_ ?_ (hexec _), shiftsAt_of_exec hop rfl ?_ ?_ ?_ (hexec _),
    shiftsAt_of_exec hop rfl ?_ ?_ ?_ (hexec _), shiftsAt_of_exec hop rfl ?_ ?_ ?_ (hexec _)⟩
  -- The bytes, the opcode fetches and the T-states of each form.
  all_goals cases op <;> rfl

/-- Settles O51: `shiftPlace` for RLC and RL. -/
theorem rotatesLeft : Obligations.RotatesLeft :=
  ⟨shiftForms_of_spec .rlc shift8_rlc, shiftForms_of_spec .rl shift8_rl⟩

/-- Settles O52: `shiftPlace` for RRC and RR. -/
theorem rotatesRight : Obligations.RotatesRight :=
  ⟨shiftForms_of_spec .rrc shift8_rrc, shiftForms_of_spec .rr shift8_rr⟩

/-- Settles O53: `shiftPlace` for SLA, SRA and SRL. -/
theorem shifts : Obligations.Shifts :=
  ⟨shiftForms_of_spec .sla shift8_sla, shiftForms_of_spec .sra shift8_sra,
    shiftForms_of_spec .srl shift8_srl⟩

/-! ### The rotates of A and of digits -/

section Rules

variable {i : Instr} {bytes : List Byte} {m1 time : Nat} {s : State}

/-- The rule of a rotate of A, for a shift known by the way its bits move, the bit it moves in and the bit it
moves out. -/
theorem follows_of_exec_rotateA {op : ShiftOp} {moved : Byte → Byte → Bool → Prop} {inBit out : Bool}
    (hop : moved s.main.a (shift8 op s.main.a s.flags.c).1 inBit
      ∧ (shift8 op s.main.a s.flags.c).2 = out)
    (hb : encode i = bytes) (hm : i.m1 = m1) (ht : cost i s = time)
    (he : exec i s = .next (s.rotateA op)) :
    Follows i bytes m1 time s [.r8 .a, .f] fun t => moved s.main.a t.main.a inBit
      ∧ FlagsAre s { s.flags with h := false, n := false, c := out } t :=
  .intro hb hm ht he (setR8_setFlags_keeps s .a _ _)
    ⟨hop.1, flagsAre_of rfl (by rw [hop.2])⟩

/-- The rule of a digit rotation, for the bytes of A and of memory known as numbers. -/
theorem rewrites_of_exec_rotateDigits {av : Byte × Byte} {m n : Nat}
    (hav : av.1.toNat = m ∧ av.2.toNat = n) (hb : encode i = bytes) (hm : i.m1 = m1)
    (ht : cost i s = time) (he : exec i s = .next (s.rotateDigits av)) :
    ∃ v : Byte, v.toNat = n ∧ Rewrites i bytes m1 time s [.r8 .a, .f] s.hl v fun t =>
      t.main.a.toNat = m ∧ FlagsAre s (arrivalFlags t.main.a s.flags) t :=
  have hkeeps : Keeps [.memory, .r8 .a, .f] s (s.rotateDigits av) :=
    (((afterRead_keeps s s.hl).trans (writeByte_keeps _ s.hl av.2)).trans
      (setR8_setFlags_keeps _ .a av.1 _)).mono (by simp)
  ⟨av.2, hav.2, .intro hb hm ht he hkeeps (rotateDigits_mem s av)
    ⟨hav.1, flagsAre_of rfl (byteFlags_spec ..)⟩⟩

end Rules

/-- Settles O50: `rotateA` for RLC, RL, RRC and RR. -/
theorem accumulatorRotates : Obligations.AccumulatorRotates := fun _ =>
  ⟨follows_of_exec_rotateA (shift8_rlc ..) rfl rfl rfl rfl,
    follows_of_exec_rotateA (shift8_rl ..) rfl rfl rfl rfl,
    follows_of_exec_rotateA (shift8_rrc ..) rfl rfl rfl rfl,
    follows_of_exec_rotateA (shift8_rr ..) rfl rfl rfl rfl⟩

/-- Settles O54: `rotateDigits` with the bytes of RLD or RRD. -/
theorem digitRotates : Obligations.DigitRotates := fun _ =>
  ⟨rewrites_of_exec_rotateDigits (rldBytes_spec ..) rfl rfl rfl rfl,
    rewrites_of_exec_rotateDigits (rrdBytes_spec ..) rfl rfl rfl rfl⟩

end Sys2Proof.Machine
end

section
/-! PROOFS. 47_bit.md: BIT, SET and RES. BIT is one read and the flags, SET and RES are one read and one
write; on a register they make no access. -/

namespace Sys2Proof.Machine

section Rules

variable {i : Instr} {bytes : List Byte} {m1 time : Nat} {s : State}

/-- The rule of an instruction that reads a byte of memory and sets the flags. -/
theorem accesses_of_exec_read_setFlags {a : Word} {g : Flags} (hb : encode i = bytes) (hm : i.m1 = m1)
    (ht : cost i s = time) (he : exec i s = .next ((s.afterRead a).setFlags g)) :
    Accesses i bytes m1 time s [.f] [.read a] (FlagsAre s g) :=
  .intro hb hm ht he ((afterRead_keeps s a).trans (setFlags_keeps _ g)) rfl
    (flagsAre_setFlags s _ g rfl)

/-- The rule of an instruction that makes one bit of a register, for the byte it puts there. -/
theorem follows_of_exec_makesBit {r : R8} {b : BitVec 3} {v : Byte} {made : Bool}
    (hv : BitMade (s.getR8 r) v b made) (hb : encode i = bytes) (hm : i.m1 = m1)
    (ht : cost i s = time) (he : exec i s = .next (s.setR8 r v)) :
    Follows i bytes m1 time s [.r8 r] fun t => BitMade (s.getR8 r) (t.getR8 r) b made :=
  (follows_of_exec_setR8 hb hm ht he).imp fun _ hr => hr ▸ hv

/-- The rule of an instruction that makes one bit of a byte of memory, for the byte it writes. -/
theorem makesBitAt_of_exec {a : Word} {b : BitVec 3} {v : Byte} {made : Bool}
    (hv : BitMade (s.readByte a) v b made) (hb : encode i = bytes) (hm : i.m1 = 2)
    (ht : cost i s = time) (he : exec i s = .next ((s.afterRead a).writeByte a v)) :
    MakesBitAt i bytes time s a b made :=
  ⟨v, hv, .intro hb hm ht he (((afterRead_keeps s a).trans (writeByte_keeps _ a v)).mono (by simp))
    rfl trivial⟩

end Rules

/-- Settles O55: a bit is tested, made 1 or made 0, in a register or in a byte of memory. -/
theorem bitOperations : Obligations.BitOperations := by
  intro s b r d
  rw [← ea_ix, ← ea_iy]
  refine ⟨⟨?bitR, ?bitHl, ?bitIx, ?bitIy⟩, ⟨?setR, ?setHl, ?setIx, ?setIy⟩,
    ⟨?resR, ?resHl, ?resIx, ?resIy⟩⟩
  case bitR => exact follows_of_exec_setFlags rfl rfl rfl rfl
  case bitHl | bitIx | bitIy => exact accesses_of_exec_read_setFlags rfl rfl rfl rfl
  case setR => exact follows_of_exec_makesBit (bitMade_set _ b) rfl rfl rfl rfl
  case setHl | setIx | setIy => exact makesBitAt_of_exec (bitMade_set _ b) rfl rfl rfl rfl
  case resR => exact follows_of_exec_makesBit (bitMade_res _ b) rfl rfl rfl rfl
  case resHl | resIx | resIy => exact makesBitAt_of_exec (bitMade_res _ b) rfl rfl rfl rfl

end Sys2Proof.Machine
end

section
/-! PROOFS. 48_jump_call_return.md: the jumps, which set PC or do not, and the calls and returns, which are
one push or one pop around that. -/

namespace Sys2Proof.Machine

/-! ### Frames of jumps, calls and returns -/

section Frames

variable (s : State)

theorem setPC_keeps (w : Word) : Keeps [.pc] s (s.setPC w) := by
  intro p hp
  cases p <;> simp_all [Part.same]

theorem setIff1_keeps (b : Bool) : Keeps [.iff1] s { s with iff1 := b } := by
  intro p hp
  cases p <;> simp_all [Part.same, State.getR8, State.readByte]

theorem call_keeps (w : Word) : Keeps [.memory, .sp, .pc] s (s.call w) :=
  (push_keeps s s.pc).trans (setPC_keeps _ w)

theorem popPC_keeps : Keeps [.memory, .sp, .pc] s s.popPC :=
  (dropTop_keeps s).trans (setPC_keeps _ s.top)

/-- A condition holds when its bit of F has the value it asks for. -/
theorem condHolds_iff (cc : Cond) : condHolds s.flags cc = true ↔ Taken s cc := by
  simp [condHolds_taken]

/-- A choice by whether B counted down is not 0, as one by B before it. -/
theorem ite_ioAgain {α : Type} (x y : α) :
    (if s.ioAgain then x else y) = if s.main.b = 1 then y else x := by
  simp [ioAgain_eq]

end Frames

/-! ### The rule of each kind of jump, call and return -/

section Rules

variable {i : Instr} {bytes : List Byte} {m1 time : Nat} {s : State}

/-- The rule of an instruction that jumps. -/
theorem follows_of_exec_setPC {w : Word} (hb : encode i = bytes) (hm : i.m1 = m1)
    (ht : cost i s = time) (he : exec i s = .next (s.setPC w)) :
    Follows i bytes m1 time s [.pc] fun t => t.pc = w :=
  .intro hb hm ht he (setPC_keeps s w) rfl

/-- The rule of an instruction that jumps on a condition the meaning tests as `c` and the rule names as
`d`. -/
theorem follows_of_exec_setPC_if {c d : Prop} [Decidable c] [Decidable d] {w : Word} (hcd : c ↔ d)
    (hb : encode i = bytes) (hm : i.m1 = m1) (ht : cost i s = time)
    (he : exec i s = .next (if c then s.setPC w else s)) :
    Follows i bytes m1 time s [.pc] fun t => t.pc = if d then w else s.pc := by
  by_cases hc : c
  · rw [if_pos hc] at he
    exact .intro hb hm ht he (setPC_keeps s w) (if_pos (hcd.mp hc)).symm
  · rw [if_neg hc] at he
    exact .intro hb hm ht he (.refl s _) (if_neg (mt hcd.mpr hc)).symm

/-- The rule of an instruction that calls. -/
theorem accesses_of_exec_call {w : Word} (hb : encode i = bytes) (hm : i.m1 = m1)
    (ht : cost i s = time) (he : exec i s = .next (s.call w)) :
    Accesses i bytes m1 time s [.sp, .pc] (pushed s s.pc) (CalledTo s w) :=
  .intro hb hm ht he (call_keeps s w) (call_mem s w) (call_calledTo s w)

/-- The rule of an instruction that returns. -/
theorem accesses_of_exec_popPC (hb : encode i = bytes) (hm : i.m1 = m1) (ht : cost i s = time)
    (he : exec i s = .next s.popPC) :
    Accesses i bytes m1 time s [.sp, .pc] (popped s) (ReturnedFrom s) :=
  .intro hb hm ht he (popPC_keeps s) (popPC_mem s) (popPC_returnedFrom s)

end Rules

/-- Settles O56: each sets PC, at once or where its condition holds, DJNZ after it counts B down. -/
theorem jumps : Obligations.Jumps := by
  intro s cc nn e
  have hclear (b : Bool) : (!b) = true ↔ b = false := by simp
  simp only [← relTarget_displaced]
  refine ⟨?jp, ?jpCc, ?jpHl, ?jpIx, ?jpIy, ?jr, ?jrC, ?jrNc, ?jrZ, ?jrNz, ?djnz⟩
  case jp | jpHl | jpIx | jpIy | jr => exact follows_of_exec_setPC rfl rfl rfl rfl
  case jpCc =>
    exact (follows_of_exec_setPC_if (condHolds_iff s cc) rfl rfl rfl rfl).imp
      fun _ ht => ⟨fun h => ht.trans (if_pos h), fun h => ht.trans (if_neg h)⟩
  case jrC | jrZ => exact follows_of_exec_setPC_if .rfl rfl rfl rfl rfl
  case jrNc | jrNz =>
    exact follows_of_exec_setPC_if (hclear _) rfl rfl (if_congr (hclear _) rfl rfl) rfl
  case djnz =>
    have hpc := ite_ioAgain s ((s.setR8 .b (s.main.b - 1)).setPC (s.relTarget e))
      (s.setR8 .b (s.main.b - 1))
    refine .intro rfl rfl (ite_ioAgain s 13 8) (congrArg Host.Outcome.next hpc) ?keeps ?after
    case keeps =>
      split
      · exact (setR8_keeps s .b _).mono (by simp)
      · exact (setR8_keeps s .b _).trans (setPC_keeps _ _)
    case after => split <;> exact ⟨rfl, rfl⟩

/-- Settles O57: each is one push or one pop with PC set, or, where its condition fails, nothing. -/
theorem callsAndReturns : Obligations.CallsAndReturns := by
  intro s cc nn k
  have hcc := condHolds_iff s cc
  refine ⟨?call, fun h => ?callTaken, fun h => ?callNot, ?rst, ?ret, fun h => ?retTaken, fun h => ?retNot,
    ?reti, ?retn⟩
  case call | rst => exact accesses_of_exec_call rfl rfl rfl rfl
  case callTaken =>
    exact accesses_of_exec_call rfl rfl (if_pos (hcc.mpr h)) (congrArg _ (if_pos (hcc.mpr h)))
  case ret | reti => exact accesses_of_exec_popPC rfl rfl rfl rfl
  case retTaken =>
    exact accesses_of_exec_popPC rfl rfl (if_pos (hcc.mpr h)) (congrArg _ (if_pos (hcc.mpr h)))
  case callNot | retNot =>
    exact follows_of_exec_self rfl rfl (if_neg (mt hcc.mp h)) (congrArg _ (if_neg (mt hcc.mp h)))
  case retn =>
    exact .intro rfl rfl rfl rfl ((popPC_keeps s).trans (setIff1_keeps _ s.iff2)) (popPC_mem s)
      ⟨popPC_returnedFrom s, rfl⟩

end Sys2Proof.Machine
end

section
/-! PROOFS. 49_io.md: what a port transfer does. The block forms are one port access and one memory access,
and one that repeats is its single form with PC put back or not. -/

namespace Sys2Proof.Machine

/-! ### Frames of the port accesses -/

section Frames

variable (s : State)

theorem setDevice_keeps (id : Nat) (d : Device) : Keeps [.devices] s (s.setDevice id d) := by
  intro p hp
  cases p <;> simp_all [Part.same]

theorem afterIoRead_keeps (p : Byte) : Keeps [.devices] s (s.afterIoRead p) := by
  unfold State.afterIoRead
  split
  · exact .refl s _
  · exact setDevice_keeps s _ _

theorem ioWrite_keeps (p v : Byte) : Keeps [.devices] s (s.ioWrite p v) := by
  unfold State.ioWrite
  split
  · exact .refl s _
  · exact setDevice_keeps s _ _

theorem blockIn_keeps (dir : Direction) : Keeps (.memory :: blockPortParts) s (s.blockIn dir) :=
  (((((afterIoRead_keeps s _).trans (writeByte_keeps _ _ _)).trans (setHL_keeps _ _)).trans
    (setR8_keeps _ .b _)).trans (setFlags_keeps _ _)).mono (by simp [qqParts, blockPortParts])

theorem blockOut_keeps (dir : Direction) : Keeps (.memory :: blockPortParts) s (s.blockOut dir) :=
  (((((afterRead_keeps s _).trans (setR8_keeps _ .b _)).trans (ioWrite_keeps _ _ _)).trans
    (setHL_keeps _ _)).trans (setFlags_keeps _ _)).mono (by simp [qqParts, blockPortParts])

end Frames

/-! ### The rule of each kind of transfer -/

section Rules

variable {i : Instr} {bytes : List Byte} {m1 time : Nat} {s : State}

/-- The rule of an instruction that writes a port. -/
theorem follows_of_exec_ioWrite {p v : Byte} (hb : encode i = bytes) (hm : i.m1 = m1)
    (ht : cost i s = time) (he : exec i s = .next (s.ioWrite p v)) :
    Follows i bytes m1 time s [.devices] (WritesPort s p v) :=
  .intro hb hm ht he (ioWrite_keeps s p v) (writesPort_of rfl)

variable {dir : Direction} {move : Word}

/-- The rule of INI and IND. -/
theorem accesses_of_exec_blockIn (hin : BlockInput s move (s.ioValue s.main.c) (s.blockIn dir))
    (hb : encode i = bytes) (hm : i.m1 = m1) (ht : cost i s = time)
    (he : exec i s = .next (s.blockIn dir)) :
    ∃ v : Byte, Accesses i bytes m1 time s blockPortParts [.write s.hl v] (BlockInput s move v) :=
  ⟨_, .intro hb hm ht he (blockIn_keeps s dir) (blockIn_mem s dir) hin⟩

/-- The rule of INIR and INDR. -/
theorem accesses_of_exec_blockIn_repeatIf
    (hin : BlockInput s move (s.ioValue s.main.c) (s.blockIn dir)) (hb : encode i = bytes)
    (hm : i.m1 = m1) (ht : cost i s = if s.ioAgain then 21 else 16)
    (he : exec i s = .next ((s.blockIn dir).repeatIf s.ioAgain)) :
    ∃ v : Byte, Accesses i bytes m1 (if s.main.b = 1 then 16 else 21) s (.pc :: blockPortParts)
      [.write s.hl v]
      fun t => BlockInput s move v t ∧ t.pc = if s.main.b = 1 then s.pc else s.pc - 2 := by
  refine ⟨_, .intro hb hm (ht.trans (ite_ioAgain s _ _)) he ?keeps
    ((repeatIf_mem ..).trans (blockIn_mem s dir)) ⟨repeatIf_blockInput _ hin, ?pc⟩⟩
  case keeps =>
    exact ((blockIn_keeps s dir).trans (repeatIf_keeps _ _)).mono (by simp [blockPortParts])
  case pc => rw [repeatIf_pc, blockIn_pc, ite_ioAgain]

/-- The rule of OUTI and OUTD. -/
theorem accesses_of_exec_blockOut (hout : BlockOutput s move (s.blockOut dir))
    (hb : encode i = bytes) (hm : i.m1 = m1) (ht : cost i s = time)
    (he : exec i s = .next (s.blockOut dir)) :
    Accesses i bytes m1 time s blockPortParts [.read s.hl] (BlockOutput s move) :=
  .intro hb hm ht he (blockOut_keeps s dir) (blockOut_mem s dir) hout

/-- The rule of OTIR and OTDR. -/
theorem accesses_of_exec_blockOut_repeatIf (hout : BlockOutput s move (s.blockOut dir))
    (hb : encode i = bytes) (hm : i.m1 = m1) (ht : cost i s = if s.ioAgain then 21 else 16)
    (he : exec i s = .next ((s.blockOut dir).repeatIf s.ioAgain)) :
    Accesses i bytes m1 (if s.main.b = 1 then 16 else 21) s (.pc :: blockPortParts) [.read s.hl]
      fun t => BlockOutput s move t ∧ t.pc = if s.main.b = 1 then s.pc else s.pc - 2 := by
  refine .intro hb hm (ht.trans (ite_ioAgain s _ _)) he ?keeps
    ((repeatIf_mem ..).trans (blockOut_mem s dir)) ⟨repeatIf_blockOutput _ hout, ?pc⟩
  case keeps =>
    exact ((blockOut_keeps s dir).trans (repeatIf_keeps _ _)).mono (by simp [blockPortParts])
  case pc => rw [repeatIf_pc, blockOut_pc, ite_ioAgain]

end Rules

/-- Settles O58: a port is read into a register or written, and each block form is one `blockIn` or
`blockOut`, up or down, with PC put back where B before it is not 1 if it repeats. -/
theorem portTransfers : Obligations.PortTransfers := by
  intro s n r
  refine ⟨?inA, ?inR, follows_of_exec_ioWrite rfl rfl rfl rfl, follows_of_exec_ioWrite rfl rfl rfl rfl,
    accesses_of_exec_blockIn (blockIn_up s) rfl rfl rfl rfl,
    accesses_of_exec_blockIn (blockIn_down s) rfl rfl rfl rfl,
    accesses_of_exec_blockOut (blockOut_up s) rfl rfl rfl rfl,
    accesses_of_exec_blockOut (blockOut_down s) rfl rfl rfl rfl,
    accesses_of_exec_blockIn_repeatIf (blockIn_up s) rfl rfl rfl rfl,
    accesses_of_exec_blockIn_repeatIf (blockIn_down s) rfl rfl rfl rfl,
    accesses_of_exec_blockOut_repeatIf (blockOut_up s) rfl rfl rfl rfl,
    accesses_of_exec_blockOut_repeatIf (blockOut_down s) rfl rfl rfl rfl⟩
  case inA =>
    exact .intro rfl rfl rfl rfl
      (((afterIoRead_keeps s n).trans (setR8_keeps _ .a _)).mono (by simp))
      (readsPort_of (setR8_devices ..))
  case inR =>
    refine .intro rfl rfl rfl rfl
      (((afterIoRead_keeps s _).trans (setR8_setFlags_keeps _ r _ _)).mono (by simp)) ?_
    rw [getR8_setFlags, getR8_setR8, if_pos rfl]
    exact ⟨readsPort_of (setR8_devices ..), flagsAre_of (by simp) (byteFlags_spec ..)⟩

end Sys2Proof.Machine
end

section
/-! PROOFS. 60_exceptions.md R343, R345, R359: where a step stops, and the instruction it runs where it does
not (20_memory.md R78, 10_state.md R43). -/

namespace Sys2Proof.Machine

/-! ### Where a step stops -/

/-- Each kind of iteration gives a next state. -/
theorem iteration_completes (s : State) : ∃ t : State, s.iteration = .next t := by
  cases ha : s.accepts with
  | true =>
    cases hm : s.im with
    | im0 => rw [iteration_mode0 ha hm]; exact exec_completes _ _
    | im1 => exact ⟨_, iteration_mode1 ha hm⟩
    | im2 => exact ⟨_, iteration_mode2 ha hm⟩
  | false =>
    cases hh : s.halted with
    | true => exact ⟨_, iteration_idle ha hh⟩
    | false => rw [iteration_runs ha hh]; exact exec_completes _ _

/-- A step of a running machine gives a next state. -/
theorem step_completes {s : State} (h : s.Running) : ∃ t : State, step s = .next t := by
  rw [step_running h]
  exact iteration_completes s

/-- The hung state is halted with iff2 = 0. -/
theorem hung_iff (s : State) : s.hung = true ↔ s.halted = true ∧ s.iff2 = false := by
  simp [State.hung]

section Stops

variable {s : State} (hl : s.handle = .live) (hm : s.memInstalled = true)

include hl hm

theorem step_hung (hh : s.hung = true) : step s = .fault .hung := by
  simp [step, hl, hm, hh]

variable (hh : s.hung = false)

include hh

theorem step_lockInvalid (h : s.icLock = .invalid) : step s = .fault .lockInvalid := by
  simp [step, hl, hm, hh, h]

theorem step_lockDeadlock (h : s.icLock = .held .core) : step s = .fault .lockDeadlock := by
  simp [step, hl, hm, hh, h]

theorem step_lockWait {k : Nat} (h : s.icLock = .held (.poster k)) : step s = .fault .lockWait := by
  simp [step, hl, hm, hh, h]

end Stops

/-- Settles O11: the tests of the loop in their order, and past them an iteration, which completes. -/
theorem stepStopsWhere : Obligations.StepStopsWhere := fun s =>
  ⟨fun ht => by simp [step, ht], fun hl hm => by simp [step, hl, hm],
    fun hl hm hh hf => step_hung hl hm ((hung_iff s).mpr ⟨hh, hf⟩),
    fun hl hm hh => ⟨step_lockInvalid hl hm hh, step_lockDeadlock hl hm hh,
      fun _ => step_lockWait hl hm hh, fun hlock => step_completes ⟨hl, hm, hh, hlock⟩⟩⟩

/-! ### The instruction a step runs -/

/-- The reads of further bytes change nothing on the reference provider. -/
theorem furtherReads_are_reads (b0 : Byte) (a : Word) (n : Nat) :
    ∀ x ∈ furtherReads b0 a n, ∃ b, x = .read b := by
  simp only [furtherReads, List.mem_append, List.mem_map]
  rintro x (hx | ⟨k, -, rfl⟩)
  · split at hx <;> simp_all
  · exact ⟨_, rfl⟩

/-- The state an instruction's operation runs in, with R counted by its opcode fetches. -/
theorem advance_of_m1 (s : State) (i : Instr) (reads : List Config.MemAccess) (n : Nat) :
    s.advance reads n i.m1 = { s with
      mem := s.mem.after reads
      pc := s.pc + BitVec.ofNat 16 n
      rReg := if i.m1 = 1 then incR s.rReg else incR (incR s.rReg)
      wz := Config.wzScratch s.wzSeq
      wzSeq := s.wzSeq + 1 } := by
  rw [advance_eq, advanceR_m1]

/-- Settles O9: the fetch in full, and the state it leaves to the operation. -/
theorem stepRunsTheDecodedInstruction : Obligations.StepRunsTheDecodedInstruction := by
  rintro s i xs hs hf rfl
  obtain rfl := (fetches_iff s i).mp hf
  refine ⟨?count, fun href => ?reads, ?state⟩
  case count =>
    have := length_pos s.fetched
    rw [List.length_cons, furtherReads_length]
    omega
  case reads =>
    refine Provider.after_reads href fun x hx => ?_
    obtain rfl | hx := List.mem_cons.mp hx
    · exact ⟨_, rfl⟩
    · exact furtherReads_are_reads _ _ _ x hx
  case state => rw [step_ready hs, State.afterFetch, advance_of_m1, fetchReads_eq]

end Sys2Proof.Machine
end

section
/-! PROOFS. 60_exceptions.md R346, R347: what an instruction and an iteration cost. -/

namespace Sys2Proof.Machine

/-- The bounds hold of the T-states of each path of each instruction. -/
theorem cost_bounds (i : Instr) (s : State) : 4 ≤ cost i s ∧ cost i s ≤ 23 := by
  cases i with
  | ldir | lddr | cpir | cpdr | jrC | jrNc | jrZ | jrNz | djnz | callCcNn | retCc | inir | indr | otir
  | otdr => simp only [cost]; split <;> decide
  | _ => simp [cost]

section Costs

variable {s : State}

/-- A mode 0 acceptance costs 2 T-states more than the instruction it injects. -/
theorem iterationCost_mode0 (ha : s.accepts = true) (hm : s.im = .im0) :
    s.iterationCost = cost (s.injected s.icBus)
      ({ s with eiDelay := false }.acceptCommon.advance (s.injectReads s.icBus)
        ((s.injected s.icBus).length - 1) (s.injected s.icBus).m1) + 2 := by
  simp only [State.iterationCost, ha, hm]
  rfl

theorem iterationCost_mode1 (ha : s.accepts = true) (hm : s.im = .im1) : s.iterationCost = 13 := by
  simp [State.iterationCost, ha, hm]

theorem iterationCost_mode2 (ha : s.accepts = true) (hm : s.im = .im2) : s.iterationCost = 19 := by
  simp [State.iterationCost, ha, hm]

theorem iterationCost_idle (ha : s.accepts = false) (hh : s.halted = true) : s.iterationCost = 4 := by
  simp [State.iterationCost, ha, hh]

/-- Without acceptance an iteration costs what the instruction at PC costs. -/
theorem iterationCost_runs (ha : s.accepts = false) (hh : s.halted = false) :
    s.iterationCost = cost s.fetched { s.afterFetch with eiDelay := false } := by
  rw [← afterFetch_delayOver]
  simp only [State.iterationCost, ha, hh]
  rfl

/-- The bounds hold of each kind of iteration. -/
theorem iterationCost_bounds (s : State) : 4 ≤ s.iterationCost ∧ s.iterationCost ≤ 25 := by
  cases ha : s.accepts with
  | true =>
    cases hm : s.im with
    | im0 =>
      rw [iterationCost_mode0 ha hm]
      exact (cost_bounds _ _).imp (Nat.le_add_right_of_le ·) (Nat.add_le_add_right · 2)
    | im1 => rw [iterationCost_mode1 ha hm]; decide
    | im2 => rw [iterationCost_mode2 ha hm]; decide
  | false =>
    cases hh : s.halted with
    | true => rw [iterationCost_idle ha hh]; decide
    | false =>
      rw [iterationCost_runs ha hh]
      exact (cost_bounds _ _).imp_right (Nat.le_trans · (by decide))

end Costs

/-- Settles O24: the costs of the instructions, and of the iterations from them. -/
theorem costsAreBounded : Obligations.CostsAreBounded := fun s i =>
  have ⟨hlo, hhi⟩ := cost_bounds i s
  ⟨hlo, hhi, iterationCost_bounds s⟩

end Sys2Proof.Machine
end

section
/-! PROOFS. 60_exceptions.md R354 to R358: when an interrupt is accepted, and what an acceptance does in each
mode. -/

namespace Sys2Proof.Machine

/-! ### No acceptance -/

/-- Nothing is accepted with iff1 = 0, in the EI delay, or with nothing pending. -/
theorem not_accepts {s : State} (h : s.iff1 = false ∨ s.eiDelay = true ∨ s.icPending = false) :
    s.accepts = false := by
  obtain h | h | h := h <;> simp [State.accepts, h]

/-- A halted machine that accepts nothing counts R and ends the EI delay. -/
theorem step_idle {s : State} (h : s.Running) (ha : s.accepts = false) (hh : s.halted = true) :
    step s = .next { s with eiDelay := false, rReg := incR s.rReg } := by
  rw [step_running h, iteration_idle ha hh, haltedIdle_eq]

/-- An instruction run after a fetch leaves the interrupt line as it was. -/
theorem exec_afterFetch_line {i : Instr} {s t : State}
    (h : exec i { s.afterFetch with eiDelay := false } = .next t) :
    t.icPending = s.icPending ∧ t.icBus = s.icBus := by
  rw [← afterFetch_delayOver] at h
  obtain ⟨-, -, -, -, hbus, hpending⟩ := exec_advance_wiring h
  exact ⟨hpending, hbus⟩

/-- Settles O18: outside the condition a running machine runs the instruction at PC or idles. -/
theorem noAcceptanceOutsideTheCondition : Obligations.NoAcceptanceOutsideTheCondition := by
  intro s hs hcond
  have ha := not_accepts hcond
  refine ⟨fun hh => ?_, step_idle hs ha⟩
  obtain ⟨t, ht⟩ := step_completes hs
  have hrun := step_ready ⟨hs, ha, hh⟩
  exact ⟨t, ht, hrun, exec_afterFetch_line (hrun.symm.trans ht)⟩

/-! ### Acceptance in modes 1 and 2 -/

/-- A pushed word reads back on the reference provider, and no other byte changes. -/
theorem pushed_readBack {s t : State} {w : Word} (href : s.mem.isReference = true)
    (h : t.mem = s.mem.after (pushed s w)) :
    t.readByte (s.sp - 1) = hiByte w ∧ t.readByte (s.sp - 2) = loByte w
      ∧ KeepsMemoryBut [s.sp - 1, s.sp - 2] s t := by
  have hread (a : Word) := (readByte_congr (s := s.push w) h a).trans (readByte_push href w a)
  have hne : s.sp - 1 ≠ s.sp - 2 := by bv_omega
  refine ⟨?_, ?_, fun a ha => ?_⟩
  · rw [hread, if_neg hne, if_pos rfl]
  · rw [hread, if_pos rfl]
  · simp only [List.mem_cons, List.not_mem_nil, or_false, not_or] at ha
    rw [hread, if_neg ha.2, if_neg ha.1]

/-- A mode 1 acceptance in full. -/
theorem step_mode1 {s : State} (hs : s.Running) (ha : s.accepts = true) (hm : s.im = .im1) :
    step s = .next { s with
      mem := s.mem.after (pushed s s.pc)
      pc := 0x0038, sp := s.sp - 2, rReg := incR s.rReg
      iff1 := false, iff2 := false, halted := false, eiDelay := false, icPending := false } := by
  rw [step_running hs, iteration_mode1 ha hm, acceptMode1_eq]
  rfl

/-- Settles O15: the push, the jump to 0x0038, and the common part. -/
theorem acceptanceInModeOne : Obligations.AcceptanceInModeOne := by
  intro s hs h1 hd hp hm
  have ha := (accepts_iff s).mpr ⟨h1, hd, hp⟩
  exact ⟨iterationCost_mode1 ha hm, _, step_mode1 hs ha hm, rfl,
    fun href => pushed_readBack href rfl⟩

/-- Settles O16: the push, the target read after it, and the common part. -/
theorem acceptanceInModeTwo : Obligations.AcceptanceInModeTwo := by
  intro s hs h1 hd hp hm
  have ha := (accepts_iff s).mpr ⟨h1, hd, hp⟩
  refine ⟨iterationCost_mode2 ha hm, _, wordOf s.icBus s.iReg, _, wordOf_toNat _ _, ?_,
    loByte_wordOf _ _, hiByte_wordOf _ _, rfl, fun href => ?_⟩
  · rw [step_running hs, iteration_mode2 ha hm, acceptMode2_eq _ _ rfl]
    rfl
  · have hreads (xs : List Config.MemAccess) (hxs : ∀ x ∈ xs, ∃ a, x = .read a) :
        s.mem.after (pushed s s.pc ++ xs) = s.mem.after (pushed s s.pc) := by
      rw [Provider.after_append, Provider.after_reads (Provider.isReference_after href _) hxs]
    refine ⟨?_, pushed_readBack href (hreads _ (by simp))⟩
    simp only [wordOf_toNat, answers, State.readByte]
    rw [hreads _ (by simp), hreads _ (by simp)]

/-! ### Acceptance in mode 0 -/

/-- 0xFF on the bus is RST 38H, whatever follows it. -/
theorem injected_rst38 (s : State) : s.injected 0xFF = .rst 7 := rfl

/-- A mode 0 acceptance in full. -/
theorem accept_mode0 {s : State} (ha : s.accepts = true) (hm : s.im = .im0) :
    ∃ t : State,
      t = { s with
        mem := s.mem.after
          (furtherReads s.icBus s.pc ((s.injected s.icBus).length - 1))
        pc := s.pc + BitVec.ofNat 16 ((s.injected s.icBus).length - 1)
        rReg := if (s.injected s.icBus).m1 = 1 then incR s.rReg else incR (incR s.rReg)
        iff1 := false, iff2 := false, halted := false, eiDelay := false, icPending := false
        wz := Config.wzScratch s.wzSeq
        wzSeq := s.wzSeq + 1 }
      ∧ s.iteration = exec (s.injected s.icBus) t
      ∧ s.iterationCost = cost (s.injected s.icBus) t + 2 := by
  have hreads : s.injectReads s.icBus =
      furtherReads s.icBus s.pc ((s.injected s.icBus).length - 1) := tailReads_eq ..
  have hadvance := advance_of_m1 { s with eiDelay := false }.acceptCommon (s.injected s.icBus)
    (s.injectReads s.icBus) ((s.injected s.icBus).length - 1)
  refine ⟨_, rfl, ?_, ?_⟩
  · rw [iteration_mode0 ha hm, hadvance, hreads]
    rfl
  · rw [iterationCost_mode0 ha hm, hadvance, hreads]
    rfl

/-- Settles O17: the injected instruction, and RST 38H beside a mode 1 acceptance. -/
theorem acceptanceInModeZero : Obligations.AcceptanceInModeZero := by
  intro s i hs h1 hd hp hm hi
  obtain rfl := (injects_iff s i).mp hi
  have ha := (accepts_iff s).mpr ⟨h1, hd, hp⟩
  obtain ⟨t, ht, hrun, hcost⟩ := accept_mode0 ha hm
  rw [← step_running hs] at hrun
  refine ⟨⟨t, ht, hrun, hcost⟩, fun hbus => ?_⟩
  have hrst : s.injected s.icBus = .rst 7 := hbus ▸ injected_rst38 s
  rw [hrst] at ht hrun hcost
  refine ⟨hcost, _, _, hrun, ?_, rfl⟩
  have hs' : { s with im := .im1 }.Running := ⟨hs.live, hs.memory, hs.notHung, hs.lock⟩
  have hnone : furtherReads 0xFF s.pc ((Instr.rst 7).length - 1) = [] := rfl
  have hpc : s.pc + BitVec.ofNat 16 ((Instr.rst 7).length - 1) = s.pc := BitVec.add_zero s.pc
  rw [hbus, hnone, hpc] at ht
  rw [step_mode1 hs' ha rfl, ht, hbus]
  rfl

/-! ### The delay of EI -/

/-- Both flip-flops set stay set through any instruction but DI: RETN copies one to the other. -/
theorem controlAfter_iff1_of_both {i : Instr} {s : State} (h1 : s.iff1 = true) (h2 : s.iff2 = true)
    (hdi : i ≠ .di) : (controlAfter i s).iff1 = true := by
  unfold controlAfter; split <;> simp_all

/-- The state EI leaves. -/
theorem step_ei {s t : State} (hs : s.Ready) (hf : s.fetched = .ei) (ht : step s = .next t) :
    t.iff1 = true ∧ t.iff2 = true ∧ t.eiDelay = true ∧ t.icPending = s.icPending
      ∧ t.halted = false := by
  have hstep := (step_ready hs).symm.trans ht
  rw [hf] at hstep
  obtain rfl := Host.Outcome.next.inj hstep
  simp [State.afterFetch, advance_eq, hs.notHalted]

/-- Settles O19: EI leaves the delay on, and the instruction after it runs with the delay over. -/
theorem enableTakesEffectAfterOneInstruction : Obligations.EnableTakesEffectAfterOneInstruction := by
  intro s t u hs hf ht hu
  obtain ⟨h1, h2, hd, hp, hh⟩ := step_ei hs hf ht
  have ha : t.accepts = false := not_accepts (.inr (.inl hd))
  have hrun := step_ready ⟨(step_next hu).1, ha, hh⟩
  have hexec := hrun.symm.trans hu
  obtain ⟨hpu, -⟩ := exec_afterFetch_line hexec
  have hc := exec_control hexec
  have hdelay (hei : t.fetched ≠ .ei) : u.eiDelay = false :=
    (congrArg State.eiDelay hc).trans (controlAfter_eiDelay hei)
  refine ⟨h1, h2, ha, hp, hpu.trans hp, hrun, hdelay, fun hei hdi => ?_⟩
  have h1u : u.iff1 = true := (congrArg State.iff1 hc).trans
    (controlAfter_iff1_of_both (by simp [State.afterFetch, advance_eq, h1])
      (by simp [State.afterFetch, advance_eq, h2]) hdi)
  simp [State.accepts, h1u, hdelay hei, hpu, hp]

end Sys2Proof.Machine
end

section
/-! PROOFS. 60_exceptions.md R341 to R346, R370, R372: the loop of execute, what ends it and what a call
consumes. -/

namespace Sys2Proof.Machine

/-! ### One pass of the loop -/

section Loop

variable {s t : State} {b : Int} {c : Nat}

/-- With the budget used up, or hung, the loop ends. -/
theorem executeLoop_finish (h : b ≤ 0 ∨ s.hung = true) (fuel : Nat) :
    executeLoop fuel b c s = s.finish c := by
  cases fuel with
  | zero => rfl
  | succ fuel => rw [executeLoop, if_pos h]

/-- With budget left and a next state, the loop goes on from there. -/
theorem executeLoop_next (hb : 0 < b) (h : step s = .next t) (fuel : Nat) :
    executeLoop (fuel + 1) b c s = executeLoop fuel (b - s.iterationCost) (c + s.iterationCost) t := by
  simp [executeLoop, (step_next h).1.notHung, hb, h]

/-- With budget left the loop has fuel for a pass. -/
theorem exists_fuel (hb : 0 < b) : ∃ fuel, b.toNat = fuel + 1 :=
  Nat.exists_eq_add_one.mpr (by omega)

/-- With budget left and a fault that is an error, the call returns the error. -/
theorem executeLoop_error (hb : 0 < b) (hh : s.hung = false) {f : Fault} {e : ErrorKind}
    (h : step s = .fault f) (he : f.errorKind = some e) :
    executeLoop b.toNat b c s = .returned c (.error e) s := by
  obtain ⟨fuel, hfuel⟩ := exists_fuel hb
  simp [hfuel, executeLoop, hh, hb, h, he]

/-- With budget left and a lock a poster holds, the Core waits. -/
theorem executeLoop_waits (hb : 0 < b) (hh : s.hung = false) (h : step s = .fault .lockWait) :
    executeLoop b.toNat b c s = .waits b c s := by
  obtain ⟨fuel, hfuel⟩ := exists_fuel hb
  simp [hfuel, executeLoop, hh, hb, h, Fault.errorKind]

/-- A LOOP THAT RETURNS HAS ENDED, GONE ON, OR RETURNED AN ERROR. -/
theorem executeLoop_returned {fuel n : Nat} {stop : StopReason}
    (h : executeLoop (fuel + 1) b c s = .returned n stop t) :
    ((b ≤ 0 ∨ s.hung = true) ∧ s.finish c = .returned n stop t)
      ∨ (0 < b ∧ ∃ u, executeLoop fuel (b - s.iterationCost) (c + s.iterationCost) u
          = .returned n stop t)
      ∨ ∃ e, stop = .error e := by
  rw [executeLoop] at h
  split at h
  · exact .inl ⟨‹_›, h⟩
  · rename_i hgo
    split at h
    · exact .inr (.inl ⟨by omega, _, h⟩)
    · split at h
      · cases h; exact .inr (.inr ⟨_, rfl⟩)
      · cases h
    · cases h

/-- A call on a live handle with memory is the loop. -/
theorem execute_eq_loop (hl : s.handle = .live) (hm : s.memInstalled = true) (b : BitVec 32) :
    s.execute b = executeLoop b.toInt.toNat b.toInt 0 s := by
  simp [State.execute, hl, hm]

/-- A call on any other handle is an error. -/
theorem execute_invalid (h : s.handle = .tornDown ∨ s.memInstalled = false) (b : BitVec 32) :
    s.execute b = .returned 0 (.error .invalidState) s := by
  unfold State.execute
  cases hl : s.handle with
  | tornDown => rfl
  | live => simp [hl] at h; simp [h]

/-- A hung machine stops with Hung. -/
theorem finish_hung (h : s.hung = true) : s.finish c = .returned c (.hung c) s := by
  simp [State.finish, State.stopReason, h]

/-- A halted machine that is not hung stops with Halted. -/
theorem finish_halted (hh : s.hung = false) (h : s.halted = true) :
    s.finish c = .returned c (.halted c) s := by
  simp [State.finish, State.stopReason, hh, h]

/-- A machine that is not halted stops with Done. -/
theorem finish_done (h : s.halted = false) : s.finish c = .returned c .done s := by
  simp [State.finish, State.stopReason, State.hung, h]

end Loop

/-! ### One iteration, and the hung machine -/

/-- Settles O28: the budget of 1 is used up by the first iteration, which costs 4 at least. -/
theorem budgetOneSingleSteps : Obligations.BudgetOneSingleSteps := by
  intro s t hs ht
  obtain ⟨hlo, -⟩ := iterationCost_bounds s
  calc s.execute 1
      = executeLoop (0 + 1) 1 0 s := execute_eq_loop hs.live hs.memory 1
    _ = executeLoop 0 (1 - s.iterationCost) (0 + s.iterationCost) t := executeLoop_next one_pos ht 0
    _ = t.finish s.iterationCost := by rw [executeLoop_finish (.inl (by omega)), Nat.zero_add]

/-- A call on a hung machine returns at once. -/
theorem execute_hung {s : State} (hl : s.handle = .live) (hm : s.memInstalled = true)
    (hh : s.hung = true) (b : BitVec 32) : s.execute b = .returned 0 (.hung 0) s := by
  rw [execute_eq_loop hl hm, executeLoop_finish (.inr hh), finish_hung hh]

/-- A first byte that decodes to `i` whatever follows it makes `i` the instruction at PC. -/
theorem fetched_of_firstByte {s : State} {b0 : Byte} {i : Instr} (h : s.readByte s.pc = b0)
    (hi : ∀ b1 b2 b3, decode4 b0 b1 b2 b3 = i) : s.fetched = i := by
  rw [State.fetched, State.firstByte, h]
  exact hi ..

/-- A HALT at PC of a ready machine halts it past the HALT, its flip-flops as before. -/
theorem step_halt {s : State} (hs : s.Ready) (hbyte : s.readByte s.pc = 0x76) :
    s.iterationCost = 4 ∧ ∃ t : State, step s = .next t ∧ t.halted = true ∧ t.iff2 = s.iff2
      ∧ t.pc = s.pc + 1 := by
  have hf : s.fetched = .halt := fetched_of_firstByte hbyte fun _ _ _ => rfl
  have hstep := step_ready hs
  rw [hf] at hstep
  refine ⟨?cost, _, hstep, rfl, ?iff2, ?pc⟩
  case cost =>
    rw [iterationCost_runs hs.noAccept hs.notHalted, hf]
    rfl
  case iff2 => simp [State.afterFetch, advance_eq]
  case pc => simp [afterFetch_pc, hf, Instr.length, Instr.format, Format.length]

/-- Settles O21: a hung machine takes no step, and HALT with iff2 = 0 leaves one. -/
theorem hungMachineStaysHung : Obligations.HungMachineStaysHung := by
  intro s b c hl hm
  refine ⟨fun hh hf => ?hung, fun hs hf hbyte hb => ?halt⟩
  case hung =>
    have hhung := (hung_iff s).mpr ⟨hh, hf⟩
    exact ⟨step_hung hl hm hhung, execute_hung hl hm hhung b⟩
  case halt =>
    obtain ⟨hcost, t, ht, hh, hft, hpc⟩ := step_halt hs hbyte
    have hhung : t.hung = true := (hung_iff t).mpr ⟨hh, hft.trans hf⟩
    obtain ⟨-, hmt, hlt, -⟩ := stepsKeepTheWiring s t ht
    obtain ⟨fuel, hfuel⟩ := exists_fuel hb
    refine ⟨t, ?_, hpc, execute_hung (hlt.trans hl) (hmt.trans hm) hhung c⟩
    rw [execute_eq_loop hl hm, hfuel, executeLoop_next hb ht, hcost, executeLoop_finish (.inr hhung),
      finish_hung hhung]

/-! ### Idling and NOPs -/

/-- A halted machine that is offered nothing steps by counting R. -/
theorem step_idle_advanceR {s : State} (hs : s.Running) (hh : s.halted = true)
    (hd : s.eiDelay = false) (ha : s.accepts = false) : step s = .next (s.advanceR 1) := by
  rw [step_idle hs ha hh, ← hd]
  rfl

/-- Idling uses up any budget, 4 T-states at a time. -/
theorem executeLoop_idle {n fuel : Nat} {b : Int} {c : Nat} {s : State} (hs : s.Running)
    (hh : s.halted = true) (hd : s.eiDelay = false) (ha : s.accepts = false)
    (hn : (n : Int) = (b + 3) / 4) (hfuel : n ≤ fuel) :
    executeLoop fuel b c s = (s.advanceR n).finish (c + 4 * n) := by
  induction n generalizing fuel b c s with
  | zero => exact executeLoop_finish (.inl (by omega)) fuel
  | succ n ih =>
    obtain ⟨fuel, rfl⟩ : ∃ k, fuel = k + 1 := ⟨fuel - 1, by omega⟩
    have hs' : (s.advanceR 1).Running :=
      ⟨by simp [hs.live], by simp [hs.memory], by simpa [State.hung] using hs.notHung,
        by simp [hs.lock]⟩
    rw [executeLoop_next (by omega) (step_idle_advanceR hs hh hd ha), iterationCost_idle ha hh,
      ih hs' (by simp [hh]) (by simp [hd]) (by simpa [State.accepts] using ha) (by omega) (by omega)]
    congr 1
    omega

/-- Settles O20: the quarter periods of the budget, each of them idle. -/
theorem haltedMachineIdles : Obligations.HaltedMachineIdles := by
  intro s b hs hh hd hoff hb
  have ha : s.accepts = false := not_accepts (hoff.imp_right .inr)
  refine ⟨((b.toInt + 3) / 4).toNat, by omega, ?_⟩
  rw [execute_eq_loop hs.live hs.memory,
    executeLoop_idle (n := ((b.toInt + 3) / 4).toNat) hs hh hd ha (by omega) (by omega), Nat.zero_add,
    finish_halted (by simpa [State.hung] using hs.notHung) (by simp [hh])]

/-- A NOP at PC of a ready machine with interrupts off: the machine is so again past it, one read made. -/
theorem step_nop {s : State} (hs : s.Ready) (hi : s.iff1 = false) (hbyte : s.readByte s.pc = 0) :
    s.iterationCost = 4 ∧ ∃ t : State, step s = .next t ∧ t.Ready ∧ t.iff1 = false
      ∧ t.pc = s.pc + 1 ∧ t.mem = s.mem.after [.read s.pc] := by
  have hf : s.fetched = .nop := fetched_of_firstByte hbyte fun _ _ _ => rfl
  have hstep := step_ready hs
  rw [hf] at hstep
  refine ⟨?cost, _, hstep, ⟨⟨?_, ?_, ?_, ?_⟩, ?_, ?_⟩, ?_, ?pc, ?mem⟩
  case cost =>
    rw [iterationCost_runs hs.noAccept hs.notHalted, hf]
    rfl
  case pc => simp [afterFetch_pc, hf, Instr.length, Instr.format, Format.length]
  case mem =>
    rw [afterFetch_mem, fetchReads_eq, hbyte, hf]
    rfl
  all_goals simp [State.afterFetch, advance_eq, State.hung, State.accepts, hs.running.live,
    hs.running.memory, hs.running.lock, hs.notHalted, hi]

/-- The next address but `k` is the address but `k + 1`. -/
theorem word_add_succ (a : Word) (k : Nat) :
    a + BitVec.ofNat 16 (k + 1) = a + 1 + BitVec.ofNat 16 k := by
  rw [Nat.add_comm, BitVec.ofNat_add, ← BitVec.add_assoc]
  rfl

/-- The reads of a run of single bytes, the first of them apart. -/
theorem byteReads_succ (a : Word) (k : Nat) :
    ((List.range (k + 1)).map fun j => Config.MemAccess.read (a + BitVec.ofNat 16 j)) =
      .read a :: (List.range k).map fun j => .read (a + 1 + BitVec.ofNat 16 j) := by
  rw [List.range_succ_eq_map, List.map_cons, List.map_map]
  exact congrArg₂ List.cons (congrArg _ (BitVec.add_zero a))
    (List.map_congr_left fun j _ => congrArg _ (word_add_succ a j))

/-- A budget of 4n T-states runs n NOPs. -/
theorem executeLoop_nops {n fuel c : Nat} {s : State} (hs : s.Ready) (hi : s.iff1 = false)
    (hfuel : n ≤ fuel)
    (hzero : ∀ k < n, answers s ((List.range k).map fun j => .read (s.pc + BitVec.ofNat 16 j))
      (s.pc + BitVec.ofNat 16 k) = 0) :
    ∃ t : State, executeLoop fuel (4 * (n : Int)) c s = .returned (c + 4 * n) .done t
      ∧ t.pc = s.pc + BitVec.ofNat 16 n := by
  induction n generalizing fuel c s with
  | zero =>
    exact ⟨s, (executeLoop_finish (.inl (by simp)) fuel).trans (finish_done hs.notHalted), by simp⟩
  | succ n ih =>
    obtain ⟨fuel, rfl⟩ : ∃ k, fuel = k + 1 := ⟨fuel - 1, by omega⟩
    have hbyte : s.readByte s.pc = 0 := by simpa [answers, State.readByte] using hzero 0 n.succ_pos
    obtain ⟨hcost, t, ht, hst, hit, hpc, hmem⟩ := step_nop hs hi hbyte
    have hzero' (k : Nat) (hk : k < n) : answers t
        ((List.range k).map fun j => .read (t.pc + BitVec.ofNat 16 j))
        (t.pc + BitVec.ofNat 16 k) = 0 := by
      have h := hzero (k + 1) (by omega)
      rw [byteReads_succ, word_add_succ] at h
      rw [answers, hmem, hpc, ← Provider.after_append]
      exact h
    obtain ⟨u, hu, hpcu⟩ := ih (fuel := fuel) (c := c + 4) hst hit (by omega) hzero'
    refine ⟨u, ?_, ?_⟩
    · rw [executeLoop_next (by omega) ht, hcost]
      convert hu using 2 <;> push_cast <;> omega
    · rw [hpcu, hpc, word_add_succ]

/-- Settles O27: the NOPs of the budget, one after the other. -/
theorem nopsConsumeFourEach : Obligations.NopsConsumeFourEach := by
  intro s b n hs hi hb hzero
  obtain ⟨t, ht, hpc⟩ := executeLoop_nops (fuel := b.toInt.toNat) (c := 0) hs hi (by omega) hzero
  refine ⟨t, ?_, hpc⟩
  rw [← hb] at ht
  rw [execute_eq_loop hs.running.live hs.running.memory, ht, Nat.zero_add]

/-! ### How a call ends -/

/-- What a call that is no error returns: its stop reason is that of the state it leaves, and it has used up
its total of T-states unless it hangs. -/
def EndsWith (total : Int) (n : Nat) (stop : StopReason) (t : State) : Prop :=
  stop = .hung n ∧ t.hung = true
    ∨ stop = .halted n ∧ t.hung = false ∧ t.halted = true ∧ total ≤ n
    ∨ stop = .done ∧ t.halted = false ∧ total ≤ n

/-- The end of the loop is such a return. -/
theorem endsWith_stopReason {s : State} {total : Int} {c : Nat} (h : total ≤ c ∨ s.hung = true) :
    EndsWith total c (s.stopReason c) s := by
  cases hh : s.hung with
  | true => simp [EndsWith, State.stopReason, hh]
  | false =>
    have htotal : total ≤ c := by simpa [hh] using h
    cases hd : s.halted <;> simp [EndsWith, State.stopReason, hh, hd, htotal]

/-- With the budget used up, or hung, a step of the Core ends the call. -/
theorem reacts_core_finish {s : State} {b : Int} {c : Nat} (h : b ≤ 0 ∨ s.hung = true) :
    System.reacts ⟨s, some ⟨b, c⟩, [], []⟩ [.core] =
      some ⟨s, none, [(c, s.stopReason c)], []⟩ := by
  simp [System.reacts, System.react, System.coreStep, h, System.endCall]

/-- With budget left and a next state, a step of the Core goes there. -/
theorem reacts_core_next {s t : State} {b : Int} {c : Nat} (hb : 0 < b) (h : step s = .next t)
    (es : List Event) :
    System.reacts ⟨s, some ⟨b, c⟩, [], []⟩ (.core :: es) =
      System.reacts ⟨t, some ⟨b - s.iterationCost, c + s.iterationCost⟩, [], []⟩ es := by
  simp [System.reacts, System.react, System.coreStep, (step_next h).1.notHung, Int.not_le.mpr hb, h]

/-- With a Free lock the loop returns, and the Core's steps alone return the same. -/
theorem executeLoop_ends {fuel : Nat} {b : Int} {c : Nat} {s : State} (hl : s.handle = .live)
    (hm : s.memInstalled = true) (hlock : s.icLock = .free) (hfuel : b ≤ fuel) :
    ∃ (n k : Nat) (stop : StopReason) (t : State), executeLoop fuel b c s = .returned n stop t
      ∧ EndsWith (c + b) n stop t
      ∧ System.reacts ⟨s, some ⟨b, c⟩, [], []⟩ (List.replicate k .core) =
          some ⟨t, none, [(n, stop)], []⟩ := by
  by_cases hend : b ≤ 0 ∨ s.hung = true
  · exact ⟨c, 1, s.stopReason c, s, executeLoop_finish hend fuel,
      endsWith_stopReason (hend.imp_left fun _ => by omega), reacts_core_finish hend⟩
  · obtain ⟨hb, hh⟩ := not_or.mp hend
    obtain ⟨t, ht⟩ := step_completes ⟨hl, hm, by simpa using hh, hlock⟩
    obtain ⟨-, hmt, hlt, hlockt, -⟩ := stepsKeepTheWiring s t ht
    obtain ⟨hcost, -⟩ := iterationCost_bounds s
    cases fuel with
    | zero => omega
    | succ fuel =>
      obtain ⟨n, k, stop, u, hloop, hends, hreacts⟩ :=
        executeLoop_ends (fuel := fuel) (b := b - s.iterationCost) (c := c + s.iterationCost)
          (hlt.trans hl) (hmt.trans hm) (hlockt.trans hlock) (by omega)
      refine ⟨n, k + 1, stop, u, ?_, ?_, ?_⟩
      · rw [executeLoop_next (by omega) ht, hloop]
      · convert hends using 1
        push_cast
        omega
      · rw [List.replicate_succ, reacts_core_next (by omega) ht, hreacts]

/-- The Host's call of execute on a live handle with memory starts the loop. -/
theorem reacts_execute {s : State} (hl : s.handle = .live) (hm : s.memInstalled = true)
    (b : BitVec 32) (es : List Event) :
    (System.idle s).reacts (.execute b :: es) = System.reacts ⟨s, some ⟨b.toInt, 0⟩, [], []⟩ es := by
  simp [System.reacts, System.react, System.startCall, System.idle, hl, hm]

/-- Settles O25: the tests before the loop, its ends at once, its errors, and with a Free lock its run. -/
theorem executeReturnsWithItsReason : Obligations.ExecuteReturnsWithItsReason := by
  intro s b
  refine ⟨fun h => execute_invalid h b, fun hl hm => ?_⟩
  rw [execute_eq_loop hl hm]
  refine ⟨fun h => ?atOnce, fun hb hh => ⟨fun h => ?invalid, fun h => ?deadlock, fun k h => ?waits⟩,
    fun hlock => ?free⟩
  case atOnce => exact executeLoop_finish h _
  case invalid => exact executeLoop_error hb hh (step_lockInvalid hl hm hh h) rfl
  case deadlock => exact executeLoop_error hb hh (step_lockDeadlock hl hm hh h) rfl
  case waits => exact executeLoop_waits hb hh (step_lockWait hl hm hh h)
  case free =>
    obtain ⟨n, k, stop, t, hloop, hends, hreacts⟩ :=
      executeLoop_ends (c := 0) hl hm hlock (Int.self_le_toNat b.toInt)
    refine ⟨n, k, stop, t, hloop, by simpa [EndsWith] using hends, ?_⟩
    rw [reacts_execute hl hm, hreacts]

/-- A loop that ends Done or Halted has used up its budget, by one iteration's cost too much at most. -/
theorem executeLoop_overshoot {fuel : Nat} {b : Int} {c n : Nat} {stop : StopReason} {s t : State}
    (hfuel : b ≤ fuel) (hb : -24 ≤ b) (h : executeLoop fuel b c s = .returned n stop t)
    (hstop : stop = .done ∨ stop = .halted n) : c + b ≤ n ∧ (n : Int) ≤ c + b + 24 := by
  induction fuel generalizing b c s with
  | zero =>
    cases h
    omega
  | succ fuel ih =>
    obtain ⟨hend, hfin⟩ | ⟨hpos, u, hu⟩ | ⟨e, rfl⟩ := executeLoop_returned h
    · have hh : s.hung = false := by
        cases hh : s.hung with
        | false => rfl
        | true => rw [finish_hung hh] at hfin; cases hfin; simp at hstop
      cases hfin
      simp only [hh, Bool.false_eq_true, or_false] at hend
      omega
    · obtain ⟨hlo, hhi⟩ := iterationCost_bounds s
      have := ih (by omega) (by omega) hu
      push_cast at this
      omega
    · simp at hstop

/-- Settles O26: the loop of a call that is no error. -/
theorem budgetOvershootIsBounded : Obligations.BudgetOvershootIsBounded := by
  intro s t b n stop h hb hstop
  by_cases hbad : s.handle = .tornDown ∨ s.memInstalled = false
  · rw [execute_invalid hbad] at h
    cases h
    simp at hstop
  · obtain ⟨hl, hm⟩ := not_or.mp hbad
    have hlive : s.handle = .live := by cases hs : s.handle <;> simp_all
    rw [execute_eq_loop hlive (by simpa using hm)] at h
    simpa using executeLoop_overshoot (Int.self_le_toNat b.toInt) (by omega) h hstop

end Sys2Proof.Machine
end

section
/-! PROOFS. 60_exceptions.md R350 to R353, 95_test_vectors.md Property 5: the lock of the interrupt
controller, posting and clearing, and two posters at once. -/

namespace Sys2Proof.Machine

/-! ### The acquire table, and a call around it -/

section Acquire

variable {s : State} {a b : Agent} {m : Shape}

theorem acquire_invalid (hl : s.handle = .live) (h : s.icLock = .invalid) :
    s.acquire a m = .failed .invalidState := by
  simp [State.acquire, hl, h]

theorem acquire_free (hl : s.handle = .live) (h : s.icLock = .free) :
    s.acquire a m = .won { s with icLock := .held a } := by
  simp [State.acquire, hl, h]

theorem acquire_nonBlocking (hl : s.handle = .live) (h : s.icLock = .held b) :
    s.acquire a .nonBlocking = .failed .wouldBlock := by
  simp [State.acquire, hl, h]

theorem acquire_own (hl : s.handle = .live) (h : s.icLock = .held a) :
    s.acquire a .blocking = .failed .deadlock := by
  simp [State.acquire, hl, h]

theorem acquire_waits (hl : s.handle = .live) (h : s.icLock = .held b) (hne : b ≠ a) :
    s.acquire a .blocking = .waits := by
  simp [State.acquire, hl, h, hne]

/-- A call fails as its acquire does. -/
theorem calls_of_failed {r : Status} (h : s.acquire a m = .failed r) (bus : Byte) :
    s.interrupt a m bus = .returned r s ∧ s.clearInterrupt a m = .returned r s := by
  simp [State.interrupt, State.clearInterrupt, h]

/-- A call that wins the lock does its update and releases. -/
theorem calls_of_won {t : State} (h : s.acquire a m = .won t) (bus : Byte) :
    s.interrupt a m bus = .returned (t.postHeld bus).1 (t.postHeld bus).2
      ∧ s.clearInterrupt a m = .returned t.clearHeld.1 t.clearHeld.2 := by
  simp [State.interrupt, State.clearInterrupt, h]

/-- A call waits as its acquire does. -/
theorem calls_of_waits (h : s.acquire a m = .waits) (bus : Byte) :
    s.interrupt a m bus = .waits ∧ s.clearInterrupt a m = .waits := by
  simp [State.interrupt, State.clearInterrupt, h]

/-- Releasing a lock that was Free before gives it back. -/
theorem release_held (h : s.icLock = .free) (pending : Bool) (bus : Byte) :
    State.release { s with icLock := .held a, icPending := pending, icBus := bus } =
      { s with icPending := pending, icBus := bus } := by
  rw [State.release, ← h]

/-- A post on an Idle controller latches the bus value. -/
theorem postHeld_idle (h : s.icLock = .free) (hp : s.icPending = false) (bus : Byte) :
    State.postHeld { s with icLock := .held a } bus =
      (.ok, { s with icPending := true, icBus := bus }) := by
  rw [← release_held (a := a) h true bus]
  simp [State.postHeld, hp]

/-- A post on a Pending controller is rejected. -/
theorem postHeld_pending (h : s.icLock = .free) (hp : s.icPending = true) (bus : Byte) :
    State.postHeld { s with icLock := .held a } bus = (.other .alreadyPending, s) :=
  (if_pos hp).trans (congrArg (Prod.mk _) (release_held h s.icPending s.icBus))

/-- A clear withdraws what is pending. -/
theorem clearHeld_free (h : s.icLock = .free) :
    State.clearHeld { s with icLock := .held a } = (.ok, { s with icPending := false }) :=
  congrArg (Prod.mk _) (release_held h false s.icBus)

end Acquire

/-- Settles O22: the rows of the table, each with the calls that fail or wait as it does, and the calls on a
Free lock. -/
theorem lockPostAndClear : Obligations.LockPostAndClear := by
  intro s a b m bus hl
  refine ⟨fun h => ⟨acquire_invalid hl h, calls_of_failed (acquire_invalid hl h) bus⟩,
    fun h => ⟨acquire_own hl h, calls_of_failed (acquire_own hl h) bus⟩,
    fun h => ⟨acquire_nonBlocking hl h, calls_of_failed (acquire_nonBlocking hl h) bus⟩,
    fun h hne => ⟨acquire_waits hl h hne, calls_of_waits (acquire_waits hl h hne) bus⟩,
    fun h => ⟨acquire_free hl h, fun hp => ?post, fun hp => ?reject, ?clear⟩, rfl⟩
  case post => rw [(calls_of_won (acquire_free hl h) bus).1, postHeld_idle h hp]
  case reject => rw [(calls_of_won (acquire_free hl h) bus).1, postHeld_pending h hp]
  case clear => rw [(calls_of_won (acquire_free hl h) bus).2, clearHeld_free h]

/-! ### Schedules of two posters -/

/-- A schedule drawn from a list, its first event taken: the rest is drawn from the rest. -/
theorem subperm_tail {e : Event} {es after : List Event} (before : List Event)
    (h : (e :: es).Subperm (before ++ e :: after)) : es.Subperm (before ++ after) :=
  (List.subperm_cons e).mp (h.trans List.perm_middle.subperm)

section Posters

variable {s : State} {v : System} {es : List Event} {rs : List (Nat × Status)} {w l : Nat}
  {m : Shape} {x y : Byte}

/-- A post is never the next event of a schedule that runs, unless its poster holds the lock. -/
theorem not_post_of_not_held {u : System} (h : u.state.icLock ≠ .held (.poster w)) :
    u.reacts (.post w x :: es) ≠ some v := by
  simp [System.reacts, System.react, h]

/-- The acquire of a Free lock wins it. -/
theorem reacts_acquire_free (hl : s.handle = .live) (h : s.icLock = .free) :
    System.reacts ⟨s, none, [], rs⟩ (.acquire w m :: es) =
      System.reacts ⟨{ s with icLock := .held (.poster w) }, none, [], rs⟩ es := by
  simp [System.reacts, System.react, acquire_free hl h]

/-- The post of the first poster to hold the lock of an Idle controller is latched. -/
theorem reacts_post_idle (h : s.icLock = .free) (hp : s.icPending = false) :
    System.reacts ⟨{ s with icLock := .held (.poster w) }, none, [], rs⟩ (.post w x :: es) =
      System.reacts ⟨{ s with icPending := true, icBus := x }, none, [], (w, .ok) :: rs⟩ es := by
  simp [System.reacts, System.react, System.reply, postHeld_idle h hp]

/-- The post of a poster that holds the lock of a Pending controller is rejected. -/
theorem reacts_post_pending (h : s.icLock = .free) (hp : s.icPending = true) :
    System.reacts ⟨{ s with icLock := .held (.poster w) }, none, [], rs⟩ (.post w x :: es) =
      System.reacts ⟨s, none, [], (w, .other .alreadyPending) :: rs⟩ es := by
  simp [System.reacts, System.react, System.reply, postHeld_pending h hp]

/-- The acquire of a lock another poster holds runs in the non-blocking shape alone, and changes nothing. -/
theorem reacts_acquire_held (hl : s.handle = .live) (hlock : s.icLock = .held (.poster w)) (hne : w ≠ l)
    (h : System.reacts ⟨s, none, [], rs⟩ (.acquire l m :: es) = some v) :
    m = .nonBlocking ∧ System.reacts ⟨s, none, [], (l, .wouldBlock) :: rs⟩ es = some v := by
  cases m with
  | blocking =>
    have hwaits := acquire_waits (a := .poster l) hl hlock (by simpa using hne)
    simp [System.reacts, System.react, hwaits] at h
  | nonBlocking =>
    have hfails := acquire_nonBlocking (a := .poster l) hl hlock
    simpa [System.reacts, System.react, System.reply, hfails] using h

/-- With a Free lock, a post that is all there is left to do is never made. -/
theorem reacts_post_left (h : s.icLock = .free) (hes : es.Subperm [.post l y])
    (hv : System.reacts ⟨s, none, [], rs⟩ es = some v) : v = ⟨s, none, [], rs⟩ := by
  cases es with
  | nil => cases hv; rfl
  | cons e es =>
    obtain rfl := List.mem_singleton.mp (hes.subset List.mem_cons_self)
    exact absurd hv (not_post_of_not_held (by simp [h]))

/-- THE LOSER AFTER THE WINNER: its call acquires the lock and its post is rejected. -/
theorem reacts_loser_after (hl : s.handle = .live) (hlock : s.icLock = .free) (hp : s.icPending = true)
    (hes : es.Subperm [.acquire l m, .post l y]) (hacq : .acquire l m ∈ es)
    (hv : System.reacts ⟨s, none, [], rs⟩ es = some v) (hfree : v.state.icLock = .free) :
    v = ⟨s, none, [], (l, .other .alreadyPending) :: rs⟩ := by
  cases es with
  | nil => cases hacq
  | cons e es =>
    have he : e = .acquire l m ∨ e = .post l y := by simpa using hes.subset List.mem_cons_self
    obtain rfl | rfl := he
    · rw [reacts_acquire_free hl hlock] at hv
      have hes' : es.Subperm [.post l y] := subperm_tail [] hes
      cases es with
      | nil => cases hv; cases hfree
      | cons e es =>
        obtain rfl := List.mem_singleton.mp (hes'.subset List.mem_cons_self)
        obtain rfl := List.subperm_nil.mp (subperm_tail [] hes')
        rw [reacts_post_pending hlock hp] at hv
        cases hv
        rfl
    · exact absurd hv (not_post_of_not_held (by simp [hlock]))

/-- THE WINNER AFTER THE LOSER: with the loser's acquire failed, the winner's post is the only one made. -/
theorem reacts_winner_after (hlock : s.icLock = .free) (hp : s.icPending = false) (hne : w ≠ l)
    (hes : es.Subperm [.post w x, .post l y])
    (hv : System.reacts ⟨{ s with icLock := .held (.poster w) }, none, [], rs⟩ es = some v)
    (hfree : v.state.icLock = .free) :
    (∃ after, es = .post w x :: after)
      ∧ v = ⟨{ s with icPending := true, icBus := x }, none, [], (w, .ok) :: rs⟩ := by
  cases es with
  | nil => cases hv; cases hfree
  | cons e es =>
    have he : e = .post w x ∨ e = .post l y := by simpa using hes.subset List.mem_cons_self
    obtain rfl | rfl := he
    · rw [reacts_post_idle hlock hp] at hv
      exact ⟨⟨es, rfl⟩, reacts_post_left (s := { s with icPending := true, icBus := x }) hlock
        (subperm_tail [] hes) hv⟩
    · exact absurd hv (not_post_of_not_held (by simpa using hne))

/-- How two posters' calls end when `w` wins: it got Ok and its post is the first one made and the only one
latched; `l` got AlreadyPending, or WouldBlock if it does not block. -/
def Wins (s : State) (es : List Event) (v : System) (w l : Nat) (shape : Shape) (bus : Byte) : Prop :=
  v.state = { s with icPending := true, icBus := bus }
    ∧ (v.replies = [(l, .other .alreadyPending), (w, .ok)]
      ∨ v.replies = [(w, .ok), (l, .wouldBlock)] ∧ shape = .nonBlocking)
    ∧ ∃ before after : List Event, es = before ++ .post w bus :: after
      ∧ ∀ (p : Nat) (b : Byte), .post p b ∉ before

/-- THE FIRST POSTER TO ACQUIRE WINS: the other one's acquire comes before its post and fails, or after it. -/
theorem wins_of_first_acquire {mw : Shape} (hl : s.handle = .live) (hlock : s.icLock = .free)
    (hp : s.icPending = false) (hne : w ≠ l)
    (hes : (.acquire w mw :: es).Subperm [.acquire w mw, .post w x, .acquire l m, .post l y])
    (hacq : .acquire l m ∈ es)
    (hv : System.reacts ⟨s, none, [], []⟩ (.acquire w mw :: es) = some v)
    (hfree : v.state.icLock = .free) : Wins s (.acquire w mw :: es) v w l m x := by
  rw [reacts_acquire_free hl hlock] at hv
  replace hes : es.Subperm [.post w x, .acquire l m, .post l y] := subperm_tail [] hes
  cases es with
  | nil => cases hacq
  | cons e es =>
    have he : e = .post w x ∨ e = .acquire l m ∨ e = .post l y := by
      simpa using hes.subset List.mem_cons_self
    obtain rfl | rfl | rfl := he
    case inl =>
      rw [reacts_post_idle hlock hp] at hv
      obtain rfl := reacts_loser_after (s := { s with icPending := true, icBus := x }) hl hlock rfl
        (subperm_tail [] hes) (by simpa using hacq) hv hfree
      exact ⟨rfl, .inl rfl, [.acquire w mw], es, rfl, by simp⟩
    case inr.inl =>
      obtain ⟨rfl, hvl⟩ := reacts_acquire_held (s := { s with icLock := .held (.poster w) }) hl rfl hne hv
      obtain ⟨⟨after, rfl⟩, rfl⟩ :=
        reacts_winner_after hlock hp hne (subperm_tail [.post w x] hes) hvl hfree
      exact ⟨rfl, .inr ⟨rfl, rfl⟩, [.acquire w mw, .acquire l .nonBlocking], after, rfl, by simp⟩
    case inr.inr => exact absurd hv (not_post_of_not_held (by simpa using hne))

end Posters

/-- Settles O23: the first event of a schedule that runs is an acquire, and the poster that makes it wins. -/
theorem oneOfTwoPostersWins : Obligations.OneOfTwoPostersWins := by
  intro s v es j k mj mk x y hl hlock hp hjk hperm hv hfree
  have hes : es.Subperm [.acquire j mj, .post j x, .acquire k mk, .post k y] := by
    obtain h | h | h := hperm
    · exact h.subperm
    · exact h.subperm.trans (List.Sublist.subperm (by simp))
    · exact h.subperm.trans (List.Sublist.subperm (by simp))
  have hacq : .acquire j mj ∈ es ∧ .acquire k mk ∈ es := by
    obtain h | h | h := hperm <;> simp [h.mem_iff]
  obtain ⟨hj, hk⟩ := hacq
  cases es with
  | nil => cases hj
  | cons e es =>
    have he : e = .acquire j mj ∨ e = .post j x ∨ e = .acquire k mk ∨ e = .post k y := by
      simpa using hes.subset List.mem_cons_self
    obtain rfl | rfl | rfl | rfl := he
    · exact ⟨j, k, mk, x, .inl ⟨rfl, rfl, rfl, rfl⟩,
        wins_of_first_acquire hl hlock hp hjk hes (by simpa [hjk.symm] using hk) hv hfree⟩
    · exact absurd hv (not_post_of_not_held (by simp [System.idle, hlock]))
    · exact ⟨k, j, mj, y, .inr ⟨rfl, rfl, rfl, rfl⟩,
        wins_of_first_acquire hl hlock hp hjk.symm (hes.trans (List.perm_append_comm
          (l₁ := [Event.acquire j mj, .post j x]) (l₂ := [.acquire k mk, .post k y])).subperm)
          (by simpa [hjk] using hj) hv hfree⟩
    · exact absurd hv (not_post_of_not_held (by simp [System.idle, hlock]))

end Sys2Proof.Machine
end

section
/-! PROOFS. 70_reset_and_hazards.md R400, R405, R406, R408: the state the model starts from, and what the host
installs and tears down. -/

namespace Sys2Proof.Machine

/-- Settles O2: the reference provider installed, with nothing listed, and the reset table. -/
theorem resetStateIsReady : Obligations.ResetStateIsReady :=
  ⟨rfl, ⟨rfl, rfl, rfl, rfl, rfl⟩,
    ready_of_resetValues (resetValues_wired Config.resetGpr State.reset) rfl⟩

section Install

variable {s : State}

/-- On a live handle install_memory fills the Memory slot. -/
theorem installMemory_live (h : s.handle = .live) (m : Provider) :
    s.installMemory m = (.ok, { s with memInstalled := true, mem := m.canonical }) := by
  simp [State.installMemory, h]

/-- On a live handle install_device fills the slot of a port in range. -/
theorem installDevice_live (h : s.handle = .live) {port : Int} (hport : 0 ≤ port ∧ port ≤ 255)
    (id : Nat) :
    s.installDevice port id = (.ok, { s with ports := tablePut s.ports port.toNat id }) := by
  have hrange : 0 ≤ port ∧ port < Config.portSlots := ⟨hport.1, by simp [Config.portSlots]; omega⟩
  simp [State.installDevice, h, hrange]

/-- On a live handle install_device refuses any other port. -/
theorem installDevice_outside (h : s.handle = .live) {port : Int} (hport : port < 0 ∨ 255 < port)
    (id : Nat) : s.installDevice port id = (.invalidState, s) := by
  have hrange : ¬ (0 ≤ port ∧ port < Config.portSlots) := by simp [Config.portSlots]; omega
  simp [State.installDevice, h, hrange]

/-- A read outside every region answers the cell of the address's own number. -/
theorem readByte_noRegion {rs : List Region} {cells : Memory} {a : Word} (hm : s.mem = .backed rs cells)
    (h : ∀ r ∈ rs, ¬ r.Holds a.toNat) : s.readByte a = Memory.read cells a.toNat := by
  simp [State.readByte, Provider.read, hm, resolve_free h]

/-- The ports after one is filled. -/
theorem tableGet_put_port (ports : List (Nat × Nat)) {port : Int} (hport : 0 ≤ port) (id q : Nat) :
    tableGet (tablePut ports port.toNat id) q =
      if (q : Int) = port then some id else tableGet ports q := by
  split
  · obtain rfl : q = port.toNat := by omega
    exact tableGet_put_same ..
  · exact tableGet_put_other _ _ (by omega)

end Install

/-- A torn-down handle refuses every host operation, or does nothing. -/
theorem tornDown_refuses {s : State} (h : s.handle = .tornDown) (m : Provider) (port : Int) (id : Nat)
    (a : Agent) (sh : Shape) (bus : Byte) (b : BitVec 32) (g : Config.ResetGpr) :
    s.installMemory m = (.invalidState, s) ∧ s.installDevice port id = (.invalidState, s)
      ∧ s.interrupt a sh bus = .returned .invalidState s
      ∧ s.clearInterrupt a sh = .returned .invalidState s
      ∧ s.execute b = .returned 0 (.error .invalidState) s ∧ s.hostReset g = s ∧ s.teardown = s := by
  have hacquire : s.acquire a sh = .failed .invalidState := by simp [State.acquire, h]
  obtain ⟨hpost, hclear⟩ := calls_of_failed hacquire bus
  refine ⟨by simp [State.installMemory, h], by simp [State.installDevice, h], hpost, hclear,
    execute_invalid (.inl h) b, hostReset_tornDown h g, ?_⟩
  rw [State.teardown, ← h]

/-- Settles O3: what the host installs is in its slot and answers there, until teardown. -/
theorem installAndTeardown : Obligations.InstallAndTeardown := by
  intro s m port id
  refine ⟨fun hl => ⟨?memory, fun hport => ?device, fun hport => installDevice_outside hl hport id⟩,
    fun a sh bus b g => ⟨rfl, tornDown_refuses rfl m port id a sh bus b g⟩⟩
  case memory =>
    rw [installMemory_live hl]
    refine ⟨rfl, rfl, Provider.wf_canonical m, ?host, ?backed, fun old => ?second⟩
    case host => rintro n log rfl; rfl
    case backed =>
      rintro rs cells rfl
      refine ⟨⟨_, rfl⟩, fun a => ⟨fun hfree => ?free, fun r hr =>
        ⟨fun base w hb => ?cells, fun v hb => ?absent⟩⟩⟩
      case free => exact (readByte_noRegion rfl hfree).trans (Memory.read_ofCells cells _)
      case cells => exact (readByte_cells rfl hr hb).trans (Memory.read_ofCells cells _)
      case absent => exact readByte_absent rfl hr hb
    case second =>
      rw [installMemory_live hl]
      exact installMemory_live (s := { s with memInstalled := true, mem := old.canonical }) hl m
  case device =>
    rw [installDevice_live hl hport]
    exact ⟨rfl, tableGet_put_port s.ports hport.1 id, rfl⟩

end Sys2Proof.Machine
end
